-- ==== Sys2Proof/Word.lean ====
section
/-! DEFINITION. The word types of the block: bytes, the 24-bit and 16-bit registers, the 48-bit integer result,
and the carrier of the numeric domain (00_scope.md R7, R9; 10_state.md R20, R35). -/

namespace Sys2Proof

/-- One byte; bit 0 is the least significant bit (R7). -/
abbrev Byte := BitVec 8

/-- A 3-byte raw register: `vp`, `vr`, `ip`, `ir`, `pp`, `pr` (R20). -/
abbrev Reg24 := BitVec 24

/-- The 2-byte raw register `pf` (R20). -/
abbrev Reg16 := BitVec 16

/-- The overflow counter, `CNT_W` = 32 bits (R21). -/
abbrev Counter := BitVec 32

/-- The integer result port `rsp_int`, `INT_W` = 48 bits (R35). -/
abbrev Int48 := BitVec 48

/-- The carrier of the numeric domain `Num` (R9): rational numbers. WHICH operations act on it is the OPEN parameter
NUMERICS, `Config.numerics`. DESIGN CHOICE, log 1: a rational is what the reference instance holds and what every
finite-precision instance that never delivers NaN or infinity (R187, U6) holds. -/
abbrev Num := Rat

end Sys2Proof
end

