-- ==== Sys2Proof/Machine/Codes.lean ====
section
/-! DEFINITION. The named codes of the block: response statuses (30_encoding.md R86), diagnostics (R88) and the
states of the frame-sync state machine (40_frame_sync_fsm.md R110), each with its number. -/

namespace Sys2Proof.Machine

/-- The seven response statuses of R86; codes 7 to 15 are never produced (R86, U11), so they have no constructor. -/
inductive Status where
  | ok
  | nodata
  /-- PARTIAL: fewer than 24 bytes were available. -/
  | partialFrame
  | sync
  | chksum
  | div0
  | illegal
  deriving DecidableEq, Repr

/-- `rsp_status[3:0]` of a status (R86). -/
def Status.code : Status → BitVec 4
  | .ok => 0
  | .nodata => 1
  | .partialFrame => 2
  | .sync => 3
  | .chksum => 4
  | .div0 => 5
  | .illegal => 6

/-- The two diagnostics of R88. -/
inductive Diag where
  | chksum
  | div0
  deriving DecidableEq, Repr

/-- `diag_code[3:0]` of a diagnostic, in the status numbering (R88). -/
def Diag.code : Diag → BitVec 4
  | .chksum => 4
  | .div0 => 5

/-- The diagnostic that goes with a response of this status: one for CHKSUM, one for DIV0, none otherwise
(R88, 60_exceptions.md R216). -/
def Status.diag : Status → Option Diag
  | .chksum => some .chksum
  | .div0 => some .div0
  | .ok | .nodata | .partialFrame | .sync | .illegal => none

/-- The eight states of the frame-sync state machine (R110). -/
inductive FsmState where
  | idle
  | settle
  | sample
  | read
  | vsync
  | vsum
  | commit
  | drain
  deriving DecidableEq, Repr

/-- `fsm_state[2:0]` of a state (R110). -/
def FsmState.code : FsmState → BitVec 3
  | .idle => 0
  | .settle => 1
  | .sample => 2
  | .read => 3
  | .vsync => 4
  | .vsum => 5
  | .commit => 6
  | .drain => 7

end Sys2Proof.Machine
end

