-- ==== Sys2Proof/Config.lean ====
section
/-! DEFINITION. The OPEN parameters of the spec (00_scope.md R6; 93_implementation_defined.md U3, U6, U8, U14), each
an opaque constant: a claim about the model holds for every value of it. The parameters the document fixes (R5) stand
in Machine/Operands.lean and Machine/Flags.lean. -/

namespace Sys2Proof

/-- A numeric instance (00_scope.md R9): the four operations of `Num`. `div` is only ever applied with a divisor for
which `isZero` is false. -/
structure Numerics where
  ofNat : Nat → Num
  mul : Num → Num → Num
  div : Num → Num → Num
  isZero : Num → Bool
  deriving Inhabited

/-- NUMERICS, the OPEN numeric instance of the machine (R6, R9, D13, U6). DESIGN CHOICE, log 1. -/
opaque Config.numerics : Numerics

/-- SETTLE_CYCLES, the OPEN length of the settle wait (R6, D12, U3). DESIGN CHOICE, log 4. -/
opaque Config.settleCycles : Nat

/-- KV_RESET, the OPEN reset value of the voltage coefficient (R6, D18, U14). DESIGN CHOICE, log 5. -/
opaque Config.kvReset : Num

/-- KI_RESET, the OPEN reset value of the current coefficient (R6, D18, U14). DESIGN CHOICE, log 5. -/
opaque Config.kiReset : Num

/-- What the n-th reset leaves in `settle_cnt`: unspecified (10_state.md R40, U8). DESIGN CHOICE, log 6. -/
opaque Config.freeSettleCnt : Nat → Nat

/-- What the n-th reset leaves in `n_sample`: unspecified (R40, U8). DESIGN CHOICE, log 6. -/
opaque Config.freeNSample : Nat → BitVec 8

/-- What the n-th reset leaves in `csum_acc`: unspecified (R40, U8). DESIGN CHOICE, log 6. -/
opaque Config.freeCsumAcc : Nat → Byte

/-- The number of `Config.freePendStatus`, before it is read as one of the seven statuses (R40, U8). -/
opaque Config.freePendCode : Nat → Fin 7

/-- What the n-th reset leaves in `pend_status`: unspecified, one of the seven statuses (R40, U8, U11).
DESIGN CHOICE, log 6. -/
def Config.freePendStatus (n : Nat) : Machine.Status :=
  match (Config.freePendCode n).val with
  | 0 => .ok
  | 1 => .nodata
  | 2 => .partialFrame
  | 3 => .sync
  | 4 => .chksum
  | 5 => .div0
  | _ => .illegal

end Sys2Proof
end

