-- ==== Sys2Proof/Syntax.lean ====
section
/-! DEFINITION. The instructions of the block: one constructor per row of spec/opcode_table.json (30_encoding.md R80). -/

namespace Sys2Proof

/-- A command, as the opcode and the operands its own rule reads (R80, R82). -/
inductive Instr where
  /-- 0x0 `POLL` (R100). -/
  | poll
  /-- 0x1 `SETKV` (R173); the operand is `cmd_num`. -/
  | setkv (num : Num)
  /-- 0x2 `SETKI` (R174); the operand is `cmd_num`. -/
  | setki (num : Num)
  /-- 0x3 `GETVEFF` (R176). -/
  | getveff
  /-- 0x4 `GETVDIV` (R175). -/
  | getvdiv
  /-- 0x5 `GETIEFF` (R178). -/
  | getieff
  /-- 0x6 `GETVSH` (R177). -/
  | getvsh
  /-- 0x7 `GETPACT` (R179). -/
  | getpact
  /-- 0x8 `GETPAPP` (R180). -/
  | getpapp
  /-- 0x9 `GETPF` (R181). -/
  | getpf
  /-- 0xA `GETPFR` (R182). -/
  | getpfr
  /-- 0xB `GETPFA` (R183). -/
  | getpfa
  /-- 0xC `GETKWH` (R184). -/
  | getkwh
  /-- 0xD `GETOK` (R160). -/
  | getok
  /-- 0xE `GETFRM` (R161); the operand is the frame offset `cmd_idx`. -/
  | getfrm (idx : Nat)
  /-- 0xF, the reserved opcode, mnemonic `ILL` (R83). -/
  | ill
  deriving DecidableEq, Repr

end Sys2Proof
end

