-- ==== Sys2Proof/WellFormed.lean ====
section
/-! DEFINITION. Which instructions a command word can carry. -/

namespace Sys2Proof

/-- An instruction is well formed when its operands fit their fields: the frame offset of `GETFRM` is the 5-bit
`cmd_idx` (30_encoding.md R81). Offsets 24 to 31 are encodable commands that answer ILLEGAL (R84). -/
def WellFormed (i : Instr) : Bool :=
  match i with
  | .getfrm idx => decide (idx < 32)
  | .poll | .setkv _ | .setki _ | .getveff | .getvdiv | .getieff | .getvsh | .getpact | .getpapp | .getpf
  | .getpfr | .getpfa | .getkwh | .getok | .ill => true

end Sys2Proof
end

