-- ==== Sys2Proof/Decode.lean ====
section
/-! DEFINITION. The command word and its decoder and encoder (30_encoding.md R80 to R82). -/

namespace Sys2Proof

/-- A command as sampled on the port: the triple (`cmd_op`, `cmd_idx`, `cmd_num`) of R81. -/
structure Cmd where
  op : BitVec 4
  idx : BitVec 5
  num : Num
  deriving DecidableEq, Repr

/-- Why a number is no command word. -/
inductive WordReject where
  /-- It has a bit set above the 9 bits `cmd_idx ++ cmd_op` of R81. -/
  | widerThanNineBits
  deriving DecidableEq, Repr

/-- The 9-bit word `cmd_idx ++ cmd_op` (R81). -/
def Cmd.word (c : Cmd) : BitVec 9 := c.idx ++ c.op

/-- A command from its 9-bit word and the number carried beside it (R81). -/
def Cmd.ofWord (w : BitVec 9) (num : Num) : Cmd :=
  { op := w.extractLsb' 0 4, idx := w.extractLsb' 4 5, num := num }

/-- The decoder: total, matching on `cmd_op` and nothing else (R80, R82). -/
def decodeCmd (c : Cmd) : Instr :=
  match c.op.toNat with
  | 0x0 => .poll
  | 0x1 => .setkv c.num
  | 0x2 => .setki c.num
  | 0x3 => .getveff
  | 0x4 => .getvdiv
  | 0x5 => .getieff
  | 0x6 => .getvsh
  | 0x7 => .getpact
  | 0x8 => .getpapp
  | 0x9 => .getpf
  | 0xA => .getpfr
  | 0xB => .getpfa
  | 0xC => .getkwh
  | 0xD => .getok
  | 0xE => .getfrm c.idx.toNat
  | _ => .ill

/-- The decoder on a number: a number above 9 bits is no command word and is rejected by name. -/
def decodeWord (w : Nat) (num : Num) : Except WordReject Instr :=
  if w < 512 then .ok (decodeCmd (Cmd.ofWord (BitVec.ofNat 9 w) num)) else .error .widerThanNineBits

/-- What the decoder reads from a row of spec/opcode_table.json: bits 3:0 of the number are `cmd_op`, bits 8:4
`cmd_idx`, and the number carried beside the word is 0. -/
def decodeTableWord (nbits w : Nat) : Option Instr :=
  match decodeWord (w % 2 ^ nbits) 0 with
  | .ok i => some i
  | .error _ => none

/-- The opcode of each instruction (R80). -/
def opcode (i : Instr) : BitVec 4 :=
  match i with
  | .poll => 0x0
  | .setkv _ => 0x1
  | .setki _ => 0x2
  | .getveff => 0x3
  | .getvdiv => 0x4
  | .getieff => 0x5
  | .getvsh => 0x6
  | .getpact => 0x7
  | .getpapp => 0x8
  | .getpf => 0x9
  | .getpfr => 0xA
  | .getpfa => 0xB
  | .getkwh => 0xC
  | .getok => 0xD
  | .getfrm _ => 0xE
  | .ill => 0xF

/-- `cmd_idx` of an instruction: the operand of `GETFRM`; every other command ignores the field (R82) and the encoder
writes 0 there. DESIGN CHOICE, log 21: an offset of 32 or more, which does not fit the field and is not well formed, is
encoded by its low five bits. -/
def operandIdx (i : Instr) : BitVec 5 :=
  match i with
  | .getfrm idx => BitVec.ofNat 5 idx
  | .poll | .setkv _ | .setki _ | .getveff | .getvdiv | .getieff | .getvsh | .getpact | .getpapp | .getpf
  | .getpfr | .getpfa | .getkwh | .getok | .ill => 0

/-- `cmd_num` of an instruction: the operand of the setters; every other command ignores it (R82) and the encoder
writes 0 there. -/
def operandNum (i : Instr) : Num :=
  match i with
  | .setkv x => x
  | .setki x => x
  | .poll | .getveff | .getvdiv | .getieff | .getvsh | .getpact | .getpapp | .getpf
  | .getpfr | .getpfa | .getkwh | .getok | .getfrm _ | .ill => 0

/-- The encoder: the command port's triple for an instruction (R80, R81). -/
def encode (i : Instr) : Cmd := { op := opcode i, idx := operandIdx i, num := operandNum i }

end Sys2Proof
end

