-- ==== Sys2Proof/Machine/State.lean ====
section
/-! DEFINITION. The state of the block, all of it (10_state.md R20 to R36), the model's own fields beside it, the
reasons a step can stop, and the state right after reset (R40). -/

namespace Sys2Proof.Machine

/-- The frame buffer (10_state.md R25): cells in rising order of offset, none holding 0x00, which is what an unlisted
offset reads as (log 7). -/
abbrev Memory := List Host.Cell

/-- The telemetry register latch (R20, R21, R22): nine fields, written together (R157). -/
structure Latch where
  vp : Reg24
  vr : Reg24
  ip : Reg24
  ir : Reg24
  pp : Reg24
  pr : Reg24
  pf : Reg16
  pfOvfCnt : Counter
  frameOk : Bool
  deriving DecidableEq, Repr

/-- The latch after reset (R40). -/
def Latch.zero : Latch :=
  { vp := 0, vr := 0, ip := 0, ir := 0, pp := 0, pr := 0, pf := 0, pfOvfCnt := 0, frameOk := false }

/-- Which result port a response drives, and with what (30_encoding.md R87). A port a response leaves undefined has no
value here (log 9). -/
inductive Result where
  | empty
  | num (x : Num)
  | int (v : Int48)
  deriving DecidableEq, Repr

/-- A response while `rsp_valid` is 1 (R35, R86, R87). -/
structure Response where
  status : Status
  result : Result
  deriving DecidableEq, Repr

/-- The inputs of one clock cycle (R35): `rst`, the command port, and the bytes that reach the transport. -/
structure CycleIn where
  rst : Bool
  cmdValid : Bool
  cmd : Cmd
  arrivals : List Byte
  deriving DecidableEq, Repr

/-- One move of the host or the environment (00_scope.md R11, 30_encoding.md R89). -/
inductive Input where
  /-- The host: one clock edge with `rst = 1`. -/
  | reset
  /-- The environment: these bytes reach the transport before the next move. -/
  | feed (bytes : List Byte)
  /-- The host issues a command and waits for its response; the environment appends `arrivals` during the settle wait
  if there is one. -/
  | command (cmd : Cmd) (arrivals : List Byte)
  /-- Both, at the cycle level: one clock cycle with these inputs. -/
  | clock (c : CycleIn)
  deriving DecidableEq, Repr

/-- The state. -/
structure State where
  /-- The telemetry register latch (R20 to R22). -/
  latch : Latch
  /-- The voltage coefficient (R24). -/
  kv : Num
  /-- The current coefficient (R24). -/
  ki : Num
  /-- The frame buffer (R25). -/
  fbuf : Memory
  /-- The transport queue `Q`, oldest byte first (R26). -/
  q : List Byte
  /-- `fsm_state` (R30). -/
  fsm : FsmState
  /-- `byte_idx` (R31). -/
  byteIdx : BitVec 5
  /-- `busy` (R32). -/
  busy : Bool
  /-- `settle_cnt` (R34). -/
  settleCnt : Nat
  /-- `n_sample` (R34). -/
  nSample : BitVec 8
  /-- `csum_acc` (R34). -/
  csumAcc : Byte
  /-- `pend_status` (R34). -/
  pendStatus : Status
  /-- The response port: `some` while `rsp_valid` is 1 (R35). -/
  rsp : Option Response
  /-- The diagnostic port: `some` while `diag_valid` is 1 (R35). -/
  diag : Option Diag
  /-- The model's own: the bytes that reach the transport during the settle wait of the POLL that runs next
  (R100, R102). DESIGN CHOICE, log 3. -/
  arrivals : List Byte
  /-- The model's own: what host and environment will still do, first move first (R11). DESIGN CHOICE, log 2. -/
  inputs : List Input
  /-- The model's own: how many resets have drawn values for the registers reset leaves unspecified (R40, U8).
  DESIGN CHOICE, log 6. -/
  draws : Nat
  deriving DecidableEq, Repr

/-- Why the machine would stop with a fault. The block has no fault (00_scope.md R12). -/
inductive Fault where
  /-- Raised by a clock cycle in state READ with `byte_idx` above 23: frame offsets 24 to 31 do not exist (R27).
  Safe: no run from reset reaches it (R31). -/
  | noSuchOffset
  deriving DecidableEq, Repr

/-- Why the machine has no meaning for a step. -/
inductive Refusal where
  /-- Raised by an arm of `exec` whose instruction has no meaning yet; no arm raises it. Safe. -/
  | notModelled (mnemonic : String)
  /-- Raised by a clock cycle in state READ that pops an empty transport queue: the spec says the case does not arise
  and that a model may refuse it (20_memory.md R51, U9). Safe: no run from reset reaches it. -/
  | emptyTransport
  deriving DecidableEq, Repr

/-- The block's state after a clock edge with `rst = 1` (R40), the `n`-th such edge: nothing in the transport and
nothing to come. -/
def State.afterReset (n : Nat) : State :=
  { latch := Latch.zero
    kv := Config.kvReset
    ki := Config.kiReset
    fbuf := []
    q := []
    fsm := .idle
    byteIdx := 0
    busy := false
    settleCnt := Config.freeSettleCnt n
    nSample := Config.freeNSample n
    csumAcc := Config.freeCsumAcc n
    pendStatus := Config.freePendStatus n
    rsp := none
    diag := none
    arrivals := []
    inputs := []
    draws := n + 1 }

/-- The machine right after reset (R40). -/
def State.reset : State := State.afterReset 0

end Sys2Proof.Machine
end

