-- ==== Sys2Proof/Machine/Ops.lean ====
section
/-! DEFINITION. The named operations over the frame buffer, the transport queue and the response port. An error of this
block is a response status and nothing else (60_exceptions.md R200): it has no exception entry and no return, and
`respond` is the one operation every command ends with. -/

namespace Sys2Proof.Machine

/-! ### The frame buffer (10_state.md R25) -/

/-- The number of offsets of the frame buffer, `FRAME_LEN` (00_scope.md R5). -/
abbrev frameLen : Nat := 24

/-- What an offset that no cell lists reads as: 0x00, the reset value of every byte of `fbuf` (R40). -/
def unlistedByte : Byte := 0

/-- `fbuf[i]`. -/
def Memory.read : Memory → Nat → Byte
  | [], _ => unlistedByte
  | (a, b) :: rest, i => if i < a then unlistedByte else if i = a then b else Memory.read rest i

/-- A cell in front of a buffer, left out where it holds what an unlisted offset reads as. -/
def Memory.cons (i : Nat) (v : Byte) (m : Memory) : Memory :=
  if v = unlistedByte then m else (i, v) :: m

/-- `fbuf[i] <- v`, keeping the canonical form. -/
def Memory.write : Memory → Nat → Byte → Memory
  | [], i, v => Memory.cons i v []
  | (a, b) :: rest, i, v =>
    if i < a then Memory.cons i v ((a, b) :: rest)
    else if i = a then Memory.cons i v rest
    else (a, b) :: Memory.write rest i v

/-- `fbuf[i], fbuf[i+1], ... <- bs`, oldest byte at the lowest offset (20_memory.md R54). -/
def Memory.writeFrom (m : Memory) (i : Nat) : List Byte → Memory
  | [] => m
  | b :: bs => Memory.writeFrom (m.write i b) (i + 1) bs

/-- The canonical form, for the cells at offset `lo` and above: offsets strictly rising, each an offset of the buffer,
and no cell holding what an unlisted offset reads as. -/
def Memory.wfFrom (lo : Nat) : Memory → Bool
  | [] => true
  | (a, b) :: rest => decide (lo ≤ a) && decide (a < frameLen) && decide (b ≠ unlistedByte) && Memory.wfFrom (a + 1) rest

/-- The canonical form of the frame buffer. -/
def Memory.wf (m : Memory) : Bool := Memory.wfFrom 0 m

/-! ### The transport (20_memory.md R50 to R53) -/

/-- `rx_avail = min(len(Q), 2^RX_CNT_W - 1)` (R50). -/
def rxAvail (s : State) : BitVec 8 := BitVec.ofNat 8 (min s.q.length 255)

/-- The environment appends bytes to `Q` (R52). -/
def feed (bytes : List Byte) (s : State) : State := { s with q := s.q ++ bytes }

/-! ### The response (R120) -/

/-- `respond(st, result)`: the command in progress is complete. `rsp_valid` rises with this status and result, the
diagnostic of that status is reported in the same cycle (R120, R216), and `busy` falls. -/
def respond (st : Status) (result : Result) (s : State) : State :=
  { s with rsp := some { status := st, result := result }, diag := st.diag, busy := false }

/-- `rsp_valid` and `diag_valid` are one-cycle pulses: they fall at the next edge (R35, R120). -/
def pulsesFall (s : State) : State := { s with rsp := none, diag := none }

/-! ### Reset (70_reset_and_hazards.md R230 to R233) -/

/-- One clock edge with `rst = 1`: the block's own state takes its reset values (R40), a command in progress is abandoned
without a response (R232), and the transport keeps its bytes (R233), the one that READ or DRAIN would have popped in this
cycle too (DESIGN CHOICE, log 20). The host's and the environment's future moves are
not the block's state. -/
def resetEdge (s : State) : State :=
  { State.afterReset s.draws with q := s.q, arrivals := s.arrivals, inputs := s.inputs }

end Sys2Proof.Machine
end

