-- ==== Sys2Proof/Machine/Operands.lean ====
section
/-! DEFINITION. Operand forms: the big-endian fields of a frame (42_big_endian_register_extractor.md R140 to R145), the
zero-extended integer results (30_encoding.md R87), and the guarded arithmetic of the scaler
(00_scope.md R9, R10; 44_calibration_coefficient_scaler.md R170 to R172). -/

namespace Sys2Proof.Machine

/-! ### Big-endian fields -/

/-- `be24(b0, b1, b2)`, high byte first (R140). -/
def be24 (b0 b1 b2 : Byte) : Reg24 := b0 ++ b1 ++ b2

/-- `be16(b0, b1)`, high byte first (R141). -/
def be16 (b0 b1 : Byte) : Reg16 := b0 ++ b1

/-- The 3-byte field at lowest offset `o` of a frame. -/
def field24 (F : Memory) (o : Nat) : Reg24 := be24 (F.read o) (F.read (o + 1)) (F.read (o + 2))

/-- The 2-byte field at lowest offset `o` of a frame. -/
def field16 (F : Memory) (o : Nat) : Reg16 := be16 (F.read o) (F.read (o + 1))

/-- The bytes of a 24-bit value, high byte first (R145). -/
def bytes24 (v : Reg24) : List Byte := [v.extractLsb' 16 8, v.extractLsb' 8 8, v.extractLsb' 0 8]

/-- The bytes of a 16-bit value, high byte first (R145). -/
def bytes16 (v : Reg16) : List Byte := [v.extractLsb' 8 8, v.extractLsb' 0 8]

/-! ### Integer results -/

/-- The success flag as an integer result, `zext_48(frame_ok)` (R160). -/
def flagInt (b : Bool) : Int48 := if b then 1 else 0

/-- `pf_ovf_cnt * pf` as a natural number: the exact product of R183. -/
def pfProduct (L : Latch) : Nat := L.pfOvfCnt.toNat * L.pf.toNat

/-! ### The numeric domain -/

/-- The reference instance of NUMERICS: exact rational arithmetic (R9). -/
def exactNumerics : Numerics :=
  { ofNat := fun n => (n : Rat), mul := fun a b => a * b, div := fun a b => a / b, isZero := fun x => decide (x = 0) }

/-- `DIV0_SENTINEL` = -1 (R6, R170, D14). -/
def div0Sentinel : Num := -1

/-- `C_1E9` (R5). -/
def c1e9 : Nat := 1000000000

/-- `C_3600` (R5). -/
def c3600 : Nat := 3600

/-- The result type of the scaler: a number or the absorbing `Div0` (R10). -/
inductive Res where
  | val (x : Num)
  | div0
  deriving DecidableEq, Repr

/-- `ratio(p, r)`: the test is on the integer `r`, before any conversion (R171). -/
def ratio (N : Numerics) (p r : Nat) : Res :=
  if r = 0 then .div0 else .val (N.div (N.ofNat p) (N.ofNat r))

/-- `res * x`; `Div0` absorbs (R10). -/
def Res.scale (N : Numerics) (x : Num) : Res → Res
  | .val a => .val (N.mul a x)
  | .div0 => .div0

/-- `a * b` of two results; `Div0` in either absorbs (R10, R180). -/
def Res.times (N : Numerics) : Res → Res → Res
  | .val a, .val b => .val (N.mul a b)
  | .val _, .div0 => .div0
  | .div0, _ => .div0

/-- `a / b` of two results, guarded: `Div0` in either absorbs, and a zero divisor gives `Div0` (R10, R181). -/
def Res.over (N : Numerics) : Res → Res → Res
  | .val a, .val b => if N.isZero b then .div0 else .val (N.div a b)
  | .val _, .div0 => .div0
  | .div0, _ => .div0

/-- A numeric getter's response: `Val(x)` is OK with `x`, `Div0` is DIV0 with the sentinel (R10, R170). -/
def respondRes (r : Res) (s : State) : State :=
  match r with
  | .val x => respond .ok (.num x) s
  | .div0 => respond .div0 (.num div0Sentinel) s

end Sys2Proof.Machine
end

