-- ==== Sys2Proof/Machine/Flags.lean ====
section
/-! DEFINITION. Flags and tests: the update-status flags of a frame (30_encoding.md R71, R143) and the two tests of the
validator (41_frame_validator_checksum.md R130 to R134). -/

namespace Sys2Proof.Machine

/-- `SENTINEL`, what byte 1 of a valid frame holds (00_scope.md R5, D9). -/
def sentinel : Byte := 0x5A

/-- `FLAGS_POS`, the offset of the update-status flags byte (R5, R71). -/
def flagsPos : Nat := 20

/-- `CS_POS`, the offset of the checksum byte (R5). -/
def csPos : Nat := 23

/-- `F[20][7]`: power-factor overflow (R71, R143). -/
def pfOvfBit (F : Memory) : Bool := (F.read flagsPos).getLsbD 7

/-- `F[20][6]`: voltage register updated (R71, R143). -/
def vUpdBit (F : Memory) : Bool := (F.read flagsPos).getLsbD 6

/-- `F[20][5]`: current register updated (R71, R143). -/
def iUpdBit (F : Memory) : Bool := (F.read flagsPos).getLsbD 5

/-- `F[20][4]`: power register updated (R71, R143). -/
def pUpdBit (F : Memory) : Bool := (F.read flagsPos).getLsbD 4

/-- `sync_ok(F)`: the sentinel test (R130). -/
def syncOk (F : Memory) : Bool := decide (F.read 1 = sentinel)

/-- The sum of the `n` bytes from offset `o` on, as a natural number. -/
def byteSum (F : Memory) (o : Nat) : Nat → Nat
  | 0 => 0
  | n + 1 => byteSum F o n + (F.read (o + n)).toNat

/-- `cs(F)`: the low 8 bits of the sum of the 21 bytes at offsets 2 to 22 (R131). -/
def cs (F : Memory) : Byte := BitVec.ofNat 8 (byteSum F 2 21)

/-- `sum_ok(F)`: the checksum test (R132). -/
def sumOk (F : Memory) : Bool := decide (cs F = F.read csPos)

/-- One step of the incremental checksum: a byte popped for offset `i` is added modulo 256 where `2 <= i <= 22`
(40_frame_sync_fsm.md R114). -/
def csAdd (acc : Byte) (i : Nat) (b : Byte) : Byte := if 2 ≤ i ∧ i ≤ 22 then acc + b else acc

/-- The incremental checksum of the bytes at offsets below `n` (R134). -/
def csUpTo (F : Memory) : Nat → Byte
  | 0 => 0
  | n + 1 => csAdd (csUpTo F n) n (F.read n)

/-- The record of R142: every field of a frame, decoded. -/
structure Extract where
  state : Byte
  check : Byte
  vp : Reg24
  vr : Reg24
  ip : Reg24
  ir : Reg24
  pp : Reg24
  pr : Reg24
  flags : Byte
  pfOvf : Bool
  vUpd : Bool
  iUpd : Bool
  pUpd : Bool
  pf : Reg16
  cs : Byte
  deriving DecidableEq, Repr

/-- `extract(F)`, the parse function: total, defined for every frame, valid or not (R142). -/
def extract (F : Memory) : Extract :=
  { state := F.read 0
    check := F.read 1
    vp := field24 F 2
    vr := field24 F 5
    ip := field24 F 8
    ir := field24 F 11
    pp := field24 F 14
    pr := field24 F 17
    flags := F.read flagsPos
    pfOvf := pfOvfBit F
    vUpd := vUpdBit F
    iUpd := iUpdBit F
    pUpd := pUpdBit F
    pf := field16 F 21
    cs := F.read csPos }

end Sys2Proof.Machine
end

