-- ==== Sys2Proof/Machine/Telemetry.lean ====
section
/-! DEFINITION. The telemetry register latch (43_telemetry_register_latch.md): the commit of a valid frame, and the
meanings of `GETOK` and `GETFRM`. -/

namespace Sys2Proof.Machine

/-- `commit(F)`: all nine latch fields from a validated frame, together (R150 to R157). -/
def commit (F : Memory) (L : Latch) : Latch :=
  let x := extract F
  { frameOk := true
    vp := x.vp
    ip := x.ip
    pp := x.pp
    vr := if x.vUpd then x.vr else L.vr
    ir := if x.iUpd then x.ir else L.ir
    pr := if x.pUpd then x.pr else L.pr
    pf := x.pf
    pfOvfCnt := if x.pfOvf then L.pfOvfCnt + 1 else L.pfOvfCnt }

/-- `GETOK`: `respond(OK, zext_48(frame_ok))` (R160). -/
def execGetok (s : State) : Host.Outcome State Fault Refusal :=
  .next (respond .ok (.int (flagInt s.latch.frameOk)) s)

/-- `GETFRM`: one byte of the frame buffer, or ILLEGAL for an offset of 24 or more (R161, R84). -/
def execGetfrm (idx : Nat) (s : State) : Host.Outcome State Fault Refusal :=
  if idx < frameLen then .next (respond .ok (.int ((s.fbuf.read idx).setWidth 48)) s)
  else .next (respond .illegal .empty s)

end Sys2Proof.Machine
end

