-- ==== Sys2Proof/Machine/Poll.lean ====
section
/-! DEFINITION. `POLL` as one atomic operation (40_frame_sync_fsm.md R100 to R109). The helper registers of R34 are left
as the state machine of R111 to R118 leaves them (log 12). -/

namespace Sys2Proof.Machine

/-- A POLL ends: the machine is in IDLE again and the response is given (R111, R116 to R118, R120). -/
def pollEnds (st : Status) (s : State) : State := respond st .empty { s with fsm := .idle }

/-- Step 2: the settle wait is over, the arrivals have joined `Q`, and the count is sampled (R102, R112, R113). -/
def settleAndSample (s : State) : State :=
  { feed s.arrivals s with
    arrivals := [], settleCnt := 0, nSample := rxAvail (feed s.arrivals s) }

/-- The drain that ends a POLL with `PARTIAL` or `SYNC`: every byte of `Q` is thrown away (R103, R105, R118). -/
def drainAndEnd (st : Status) (s : State) : State := pollEnds st { s with q := [], pendStatus := st }

/-- Step 4: exactly 24 bytes, oldest first, from `Q` into the frame buffer (R104, R114). -/
def acquire (s : State) : State :=
  { s with
    q := s.q.drop frameLen
    fbuf := s.fbuf.writeFrom 0 (s.q.take frameLen)
    byteIdx := BitVec.ofNat 5 frameLen
    csumAcc := cs (s.fbuf.writeFrom 0 (s.q.take frameLen)) }

/-- Steps 5 to 7: validate and commit (R105 to R107, R133). -/
def validateAndCommit (s : State) : State :=
  if syncOk s.fbuf then
    if sumOk s.fbuf then pollEnds .ok { s with latch := commit s.fbuf s.latch }
    else pollEnds .chksum s
  else drainAndEnd .sync s

/-- Step 3 on: the sampled bytes are too few for a frame, or they are read and validated (R103 to R107). -/
def takeFrame (s : State) : State :=
  if s.q.length < frameLen then drainAndEnd .partialFrame s else validateAndCommit (acquire s)

/-- `POLL`: try to acquire, validate and commit one frame (R100). -/
def execPoll (s : State) : Host.Outcome State Fault Refusal :=
  if s.q = [] then .next (respond .nodata .empty { s with arrivals := [] })
  else .next (takeFrame (settleAndSample s))

end Sys2Proof.Machine
end

