-- ==== Sys2Proof/Machine/Reserved.lean ====
section
/-! DEFINITION. The reserved opcode 0xF, `ILL` (30_encoding.md R83). -/

namespace Sys2Proof.Machine

/-- `ILL`: changes no state, pops no byte, emits no diagnostic, and responds ILLEGAL (R83). -/
def execIll (s : State) : Host.Outcome State Fault Refusal := .next (respond .illegal .empty s)

end Sys2Proof.Machine
end

