-- ==== Sys2Proof/Machine/Scaler.lean ====
section
/-! DEFINITION. The calibration coefficient scaler (44_calibration_coefficient_scaler.md): the values of the getters over
any numeric instance, and the meanings of the two setters and the ten getters. -/

namespace Sys2Proof.Machine

/-! ### Values, over a numeric instance (R172: left to right, parentheses kept) -/

/-- `ratio(vp, vr)` (R175). -/
def dividerVoltage (N : Numerics) (s : State) : Res := ratio N s.latch.vp.toNat s.latch.vr.toNat

/-- `ratio(vp, vr) * kv` (R176). -/
def effectiveVoltage (N : Numerics) (s : State) : Res := (dividerVoltage N s).scale N s.kv

/-- `ratio(ip, ir)` (R177). -/
def shuntVoltage (N : Numerics) (s : State) : Res := ratio N s.latch.ip.toNat s.latch.ir.toNat

/-- `ratio(ip, ir) * ki` (R178). -/
def effectiveCurrent (N : Numerics) (s : State) : Res := (shuntVoltage N s).scale N s.ki

/-- `(ratio(pp, pr) * kv) * ki` (R179). -/
def activePower (N : Numerics) (s : State) : Res :=
  ((ratio N s.latch.pp.toNat s.latch.pr.toNat).scale N s.kv).scale N s.ki

/-- `GETVEFF * GETIEFF`, `Div0` absorbing (R180). -/
def apparentPower (N : Numerics) (s : State) : Res := (effectiveVoltage N s).times N (effectiveCurrent N s)

/-- `GETPACT / GETPAPP`, guarded against zero apparent power (R181). -/
def powerFactor (N : Numerics) (s : State) : Res := (activePower N s).over N (apparentPower N s)

/-- The pulses-per-kWh chain of R184, each division individually guarded. -/
def pulsesPerKWh (N : Numerics) (s : State) : Res :=
  if s.latch.pp = 0 then .div0
  else
    let a := N.div (N.ofNat 1) (N.ofNat s.latch.pp.toNat)
    let kk := N.mul s.kv s.ki
    if N.isZero kk then .div0
    else .val (N.mul (N.mul (N.mul a (N.div (N.ofNat 1) kk)) (N.ofNat c1e9)) (N.ofNat c3600))

/-- `ofNat(pf_ovf_cnt * pf) / pulses`, guarded (R184). -/
def energyKWh (N : Numerics) (s : State) : Res :=
  (Res.val (N.ofNat (pfProduct s.latch))).over N (pulsesPerKWh N s)

/-! ### The setters -/

/-- `SETKV`: `kv <- cmd_num`, unchecked (R173). -/
def execSetkv (x : Num) (s : State) : Host.Outcome State Fault Refusal :=
  .next (respond .ok .empty { s with kv := x })

/-- `SETKI`: `ki <- cmd_num`, unchecked (R174). -/
def execSetki (x : Num) (s : State) : Host.Outcome State Fault Refusal :=
  .next (respond .ok .empty { s with ki := x })

/-! ### The getters -/

/-- `GETVEFF` (R176). -/
def execGetveff (s : State) : Host.Outcome State Fault Refusal :=
  .next (respondRes (effectiveVoltage Config.numerics s) s)

/-- `GETVDIV` (R175). -/
def execGetvdiv (s : State) : Host.Outcome State Fault Refusal :=
  .next (respondRes (dividerVoltage Config.numerics s) s)

/-- `GETIEFF` (R178). -/
def execGetieff (s : State) : Host.Outcome State Fault Refusal :=
  .next (respondRes (effectiveCurrent Config.numerics s) s)

/-- `GETVSH` (R177). -/
def execGetvsh (s : State) : Host.Outcome State Fault Refusal :=
  .next (respondRes (shuntVoltage Config.numerics s) s)

/-- `GETPACT` (R179). -/
def execGetpact (s : State) : Host.Outcome State Fault Refusal :=
  .next (respondRes (activePower Config.numerics s) s)

/-- `GETPAPP` (R180). -/
def execGetpapp (s : State) : Host.Outcome State Fault Refusal :=
  .next (respondRes (apparentPower Config.numerics s) s)

/-- `GETPF` (R181). -/
def execGetpf (s : State) : Host.Outcome State Fault Refusal :=
  .next (respondRes (powerFactor Config.numerics s) s)

/-- `GETPFR`: `respond(OK, zext_48(pf))` (R182). -/
def execGetpfr (s : State) : Host.Outcome State Fault Refusal :=
  .next (respond .ok (.int (s.latch.pf.setWidth 48)) s)

/-- `GETPFA`: `respond(OK, pf_ovf_cnt * pf)`, exact in 48 bits (R183). -/
def execGetpfa (s : State) : Host.Outcome State Fault Refusal :=
  .next (respond .ok (.int (BitVec.ofNat 48 (pfProduct s.latch))) s)

/-- `GETKWH` (R184). -/
def execGetkwh (s : State) : Host.Outcome State Fault Refusal :=
  .next (respondRes (energyKWh Config.numerics s) s)

end Sys2Proof.Machine
end

