-- ==== Sys2Proof/Machine/Dispatch.lean ====
section
/-! DEFINITION. The meaning of each instruction (30_encoding.md R80): one arm per constructor. -/

namespace Sys2Proof.Machine

def exec (i : Instr) (s : State) : Host.Outcome State Fault Refusal :=
  match i with
  | .poll => Sys2Proof.Machine.execPoll s
  | .setkv num => Sys2Proof.Machine.execSetkv num s
  | .setki num => Sys2Proof.Machine.execSetki num s
  | .getveff => Sys2Proof.Machine.execGetveff s
  | .getvdiv => Sys2Proof.Machine.execGetvdiv s
  | .getieff => Sys2Proof.Machine.execGetieff s
  | .getvsh => Sys2Proof.Machine.execGetvsh s
  | .getpact => Sys2Proof.Machine.execGetpact s
  | .getpapp => Sys2Proof.Machine.execGetpapp s
  | .getpf => Sys2Proof.Machine.execGetpf s
  | .getpfr => Sys2Proof.Machine.execGetpfr s
  | .getpfa => Sys2Proof.Machine.execGetpfa s
  | .getkwh => Sys2Proof.Machine.execGetkwh s
  | .getok => Sys2Proof.Machine.execGetok s
  | .getfrm idx => Sys2Proof.Machine.execGetfrm idx s
  | .ill => Sys2Proof.Machine.execIll s

end Sys2Proof.Machine
end

