-- ==== Sys2Proof/Machine/Cycle.lean ====
section
/-! DEFINITION. One clock cycle of the block: the frame-sync state machine of 40_frame_sync_fsm.md R110 to R120, one
function per state. Each takes the state with the bytes of this cycle already in `Q` and with last cycle's response
and diagnostic pulses fallen. -/

namespace Sys2Proof.Machine

/-- A clock cycle in which nobody offers anything but these bytes. -/
def CycleIn.bytes (arrivals : List Byte) : CycleIn :=
  { rst := false, cmdValid := false, cmd := { op := 0, idx := 0, num := 0 }, arrivals := arrivals }

/-- A clock cycle in which the host offers this command. -/
def CycleIn.offer (cmd : Cmd) (arrivals : List Byte) : CycleIn :=
  { rst := false, cmdValid := true, cmd := cmd, arrivals := arrivals }

/-- IDLE, a command accepted (R111). A `POLL` with data starts the settle wait; every other command, and a `POLL` without
data, is executed here as one step (R111, D32; log 11). -/
def tickAccept (cmd : Cmd) (s : State) : Host.Outcome State Fault Refusal :=
  if cmd.op = 0 then
    if rxAvail s = 0 then .next (respond .nodata .empty s)
    else .next { s with fsm := .settle, settleCnt := Config.settleCycles, busy := true }
  else exec (decodeCmd cmd) s

/-- IDLE (R111, R33). -/
def tickIdle (c : CycleIn) (s : State) : Host.Outcome State Fault Refusal :=
  if c.cmdValid && !s.busy then tickAccept c.cmd s else .next s

/-- SETTLE (R112). -/
def tickSettle (s : State) : State :=
  if s.settleCnt = 0 then { s with fsm := .sample } else { s with settleCnt := s.settleCnt - 1 }

/-- SAMPLE (R113). -/
def tickSample (s : State) : State :=
  if rxAvail s < 24 then { s with nSample := rxAvail s, pendStatus := .partialFrame, fsm := .drain }
  else { s with nSample := rxAvail s, byteIdx := 0, csumAcc := 0, fsm := .read }

/-- READ pops the byte `b` into the frame buffer at `byte_idx`, leaving `rest` in `Q` (R114). -/
def readByte (b : Byte) (rest : List Byte) (s : State) : State :=
  { s with
    q := rest
    fbuf := s.fbuf.write s.byteIdx.toNat b
    csumAcc := csAdd s.csumAcc s.byteIdx.toNat b
    byteIdx := s.byteIdx + 1
    fsm := if s.byteIdx.toNat = 23 then .vsync else .read }

/-- READ (R114). The pop of an empty queue and an offset above 23 do not arise (20_memory.md R51, 10_state.md R31). -/
def tickRead (s : State) : Host.Outcome State Fault Refusal :=
  match s.q with
  | [] => .refused .emptyTransport
  | b :: rest => if s.byteIdx.toNat < frameLen then .next (readByte b rest s) else .fault .noSuchOffset

/-- VSYNC (R115). -/
def tickVsync (s : State) : State :=
  if s.fbuf.read 1 = sentinel then { s with fsm := .vsum } else { s with pendStatus := .sync, fsm := .drain }

/-- VSUM (R116). -/
def tickVsum (s : State) : State :=
  if s.csumAcc = s.fbuf.read csPos then { s with fsm := .commit } else pollEnds .chksum s

/-- COMMIT (R117). -/
def tickCommit (s : State) : State := pollEnds .ok { s with latch := commit s.fbuf s.latch }

/-- DRAIN (R118). -/
def tickDrain (s : State) : State :=
  if rxAvail s = 0 then pollEnds s.pendStatus s else { s with q := s.q.tail }

/-- What a clock edge without reset does, by the state of the machine (R110). -/
def tickFsm (c : CycleIn) (s : State) : Host.Outcome State Fault Refusal :=
  match s.fsm with
  | .idle => tickIdle c s
  | .settle => .next (tickSettle s)
  | .sample => .next (tickSample s)
  | .read => tickRead s
  | .vsync => .next (tickVsync s)
  | .vsum => .next (tickVsum s)
  | .commit => .next (tickCommit s)
  | .drain => .next (tickDrain s)

/-- One clock cycle: the bytes of the cycle reach the transport (R52), then the edge takes effect; `rst` overrides every
transition (R110, R230). -/
def tick (c : CycleIn) (s : State) : Host.Outcome State Fault Refusal :=
  if c.rst then .next (resetEdge (feed c.arrivals s)) else tickFsm c (pulsesFall (feed c.arrivals s))

/-- A sequence of clock cycles, stopping where a cycle stops. -/
def runCycles : List CycleIn → State → Host.Outcome State Fault Refusal
  | [], s => .next s
  | c :: rest, s =>
    match tick c s with
    | .next t => runCycles rest t
    | .fault r => .fault r
    | .refused r => .refused r

end Sys2Proof.Machine
end

