-- ==== Sys2Proof/Machine/Ports.lean ====
section
/-! DEFINITION. The output ports of the block (10_state.md R23, R35), each a function of the state. A port that is
undefined in a state answers `none`. In a clock cycle with inputs `c` a port is read on `feed c.arrivals s`, the state with
the bytes of the cycle in `Q` (log 13). -/

namespace Sys2Proof.Machine

/-- `cmd_ready` = not `busy` (R32, R35). -/
def cmdReady (s : State) : Bool := !s.busy

/-- `rsp_valid` (R35). -/
def rspValid (s : State) : Bool := s.rsp.isSome

/-- `rsp_status[3:0]`, defined only while `rsp_valid` is 1 (R35, R86). -/
def rspStatus (s : State) : Option (BitVec 4) := s.rsp.map fun r => r.status.code

/-- The number of a result that drives `rsp_num` (30_encoding.md R87). -/
def Result.num? : Result → Option Num
  | .num x => some x
  | .int _ => none
  | .empty => none

/-- The integer of a result that drives `rsp_int` (R87). -/
def Result.int? : Result → Option Int48
  | .int v => some v
  | .num _ => none
  | .empty => none

/-- `rsp_num` (R35, R87). -/
def rspNum (s : State) : Option Num := s.rsp.bind fun r => r.result.num?

/-- `rsp_int[47:0]` (R35, R87). -/
def rspInt (s : State) : Option Int48 := s.rsp.bind fun r => r.result.int?

/-- `diag_valid` (R35). -/
def diagValid (s : State) : Bool := s.diag.isSome

/-- `diag_code[3:0]`, defined only while `diag_valid` is 1 (R35, R88). -/
def diagCode (s : State) : Option (BitVec 4) := s.diag.map Diag.code

/-- `rx_data[7:0]`: the oldest byte of `Q`, defined only while `rx_avail` is not 0 (R35, U9). -/
def rxData (s : State) : Option Byte := s.q.head?

/-- `rx_pop`: 1 in every cycle of READ, and in a cycle of DRAIN that sees a byte (40_frame_sync_fsm.md R111 to R118).
DESIGN CHOICE, log 20: it does not look at `rst`, so it is 1 in such a cycle whose edge carries `rst = 1` too; the pop has
no effect there and `Q` keeps the byte (70_reset_and_hazards.md R233). -/
def rxPop (s : State) : Bool :=
  match s.fsm with
  | .read => true
  | .drain => decide (rxAvail s ≠ 0)
  | .idle | .settle | .sample | .vsync | .vsum | .commit => false

/-- `fsm_state_q[2:0]` (R30, R35). -/
def fsmStateQ (s : State) : BitVec 3 := s.fsm.code

/-- The latch ports `vp_q` ... `frame_ok_q`, driven continuously (R23). -/
def latchQ (s : State) : Latch := s.latch

end Sys2Proof.Machine
end

