-- ==== Sys2Proof/Machine/Agents.lean ====
section
/-! DEFINITION. The moves of the three agents (00_scope.md R11): what one step of the machine does with the first of the
moves that host and environment still have to make. -/

namespace Sys2Proof.Machine

/-- A command the host issues as one operation. The host waits for `cmd_ready` (30_encoding.md R89, 10_state.md R33):
while the block is busy a clock cycle passes and the command stays with the host. Once the block is ready, the command
is decoded and executed as one atomic step (R11, D36), with `arrivals` as its free input. -/
def issue (cmd : Cmd) (arrivals : List Byte) (rest : List Input) (s : State) : Host.Outcome State Fault Refusal :=
  if cmdReady s then exec (decodeCmd cmd) { s with inputs := rest, arrivals := arrivals }
  else tick (CycleIn.bytes []) s

/-- One move of host or environment, with the moves that follow it. -/
def takeInput (i : Input) (rest : List Input) (s : State) : Host.Outcome State Fault Refusal :=
  match i with
  | .reset => .next (resetEdge { s with inputs := rest })
  | .feed bytes => .next (feed bytes { s with inputs := rest })
  | .command cmd arrivals => issue cmd arrivals rest s
  | .clock c => tick c { s with inputs := rest }

/-- One step: the next move, or, where host and environment have none, a clock cycle in which nobody offers anything. -/
def advance (s : State) : Host.Outcome State Fault Refusal :=
  match s.inputs with
  | [] => tick (CycleIn.bytes []) s
  | i :: rest => takeInput i rest s

/-- The machine with this command as the host's next move and the block ready to accept it. -/
def placeCommand (cmd : Cmd) (s : State) : State :=
  { s with inputs := .command cmd [] :: s.inputs, busy := false, fsm := .idle }

end Sys2Proof.Machine
end

