-- ==== Sys2Proof/Machine/Step.lean ====
section
/-! DEFINITION. One step of the machine, and how a command comes to be its next step. -/

namespace Sys2Proof.Machine

/-- One step (Machine/Agents.lean). -/
def step (s : State) : Host.Outcome State Fault Refusal := advance s

/-- `s` with the command word `w` of the opcode table on the command port as the host's next move, the number beside it
0 (log 2). -/
def State.withFetchWord (s : State) (nbits w : Nat) : State :=
  placeCommand (Cmd.ofWord (BitVec.ofNat 9 (w % 2 ^ nbits)) 0) s

end Sys2Proof.Machine
end

