-- ==== Sys2Proof/Machine/Script.lean ====
section
/-! DEFINITION. The script lines of 30_encoding.md R89 and R90 as moves of host and environment. -/

namespace Sys2Proof.Machine

/-- The fields of the `FRAME` line: `FRAME st vp vr ip ir pp pr fl pf` (R90). -/
structure FrameFields where
  st : Byte
  vp : Reg24
  vr : Reg24
  ip : Reg24
  ir : Reg24
  pp : Reg24
  pr : Reg24
  fl : Byte
  pf : Reg16
  deriving DecidableEq, Repr

/-- One line of a script (R89, R90). -/
inductive ScriptLine where
  | reset
  /-- A command with the bytes that arrive during its settle wait: `POLL`, `POLL +[...]`, `SETKV x`, `GETFRM i`, ...
A line `GETFRM i` with `i` of 32 or more issues offset `i` modulo 32 (DESIGN CHOICE, log 21). -/
  | issue (i : Instr) (arrivals : List Byte)
  | feed (bytes : List Byte)
  | frame (f : FrameFields)
  | badcs (f : FrameFields)
  | badsync (f : FrameFields)
  | init (kv ki : Num)
  deriving DecidableEq, Repr

/-- The bytes at offsets 2 to 22 of the frame a `FRAME` line builds (R90, R145). -/
def FrameFields.payload (f : FrameFields) : List Byte :=
  bytes24 f.vp ++ bytes24 f.vr ++ bytes24 f.ip ++ bytes24 f.ir ++ bytes24 f.pp ++ bytes24 f.pr ++ [f.fl] ++ bytes16 f.pf

/-- The checksum byte of a frame with this payload: the sum modulo 256 (R90, R131). -/
def payloadSum (bytes : List Byte) : Byte := BitVec.ofNat 8 (bytes.map BitVec.toNat).sum

/-- The 24 bytes of `FRAME` (R90): a valid frame by R73. -/
def FrameFields.frame (f : FrameFields) : List Byte := [f.st, sentinel] ++ f.payload ++ [payloadSum f.payload]

/-- The 24 bytes of `BADCS`: wrong in the checksum only (R90). -/
def FrameFields.badcs (f : FrameFields) : List Byte := [f.st, sentinel] ++ f.payload ++ [payloadSum f.payload + 1]

/-- The 24 bytes of `BADSYNC`: byte 1 is 0x5B, the checksum is right (R90). -/
def FrameFields.badsync (f : FrameFields) : List Byte := [f.st, 0x5B] ++ f.payload ++ [payloadSum f.payload]

/-- The moves a line stands for. -/
def ScriptLine.moves : ScriptLine → List Input
  | .reset => [.reset]
  | .issue i arrivals => [.command (encode i) arrivals]
  | .feed bytes => [.feed bytes]
  | .frame f => [.feed f.frame]
  | .badcs f => [.feed f.badcs]
  | .badsync f => [.feed f.badsync]
  | .init kv ki => [.reset, .command (encode (.setkv kv)) [], .command (encode (.setki ki)) []]

/-- The check `-> ST` or `-> ST v` on a line: the response has this status, and this result where one is given (R89). -/
def answers (s : State) (st : Status) (v : Option Result) : Bool :=
  match s.rsp with
  | none => false
  | some r => decide (r.status = st) && (match v with | none => true | some x => decide (r.result = x))

end Sys2Proof.Machine
end

