-- ==== Sys2Proof/Safety.lean ====
section
/-! DEFINITION. What counts as a sound state and a sound outcome, in the terms the claims use. -/

namespace Sys2Proof

open Machine

/-- Byte `i` of a sequence of bytes in order of arrival (00_scope.md R7). -/
def frameAt (bytes : List Byte) (i : Nat) : Byte := bytes.getD i 0

/-- The sum of bytes 2 to 22 (41_frame_validator_checksum.md R131). -/
def frameSum (bytes : List Byte) : Nat := ((List.range 21).map fun k => (frameAt bytes (k + 2)).toNat).sum

/-- The first 24 bytes of this sequence are a valid frame (30_encoding.md R73). -/
def ValidFrame (bytes : List Byte) : Prop :=
  24 ≤ bytes.length ∧ frameAt bytes 1 = 0x5A ∧ frameSum bytes % 256 = (frameAt bytes 23).toNat

/-- What a POLL that starts in this state samples: `Q` with the bytes of the settle wait (R102). -/
def sampled (s : State) : List Byte := s.q ++ s.arrivals

/-- The statuses each command can return (60_exceptions.md R203). -/
def mayAnswer (i : Instr) (st : Status) : Bool :=
  match i with
  | .poll => decide (st ∈ [Status.ok, .nodata, .partialFrame, .sync, .chksum])
  | .setkv _ | .setki _ | .getpfr | .getpfa | .getok => decide (st = .ok)
  | .getveff | .getvdiv | .getieff | .getvsh | .getpact | .getpapp | .getpf | .getkwh =>
    decide (st ∈ [Status.ok, .div0])
  | .getfrm _ => decide (st ∈ [Status.ok, .illegal])
  | .ill => decide (st = .illegal)

/-- The command changes nothing of the block but its response: the getters, `GETOK`, `GETFRM` and `ILL`
(44_calibration_coefficient_scaler.md R186, 43_telemetry_register_latch.md R158, 30_encoding.md R83). -/
def isReader (i : Instr) : Bool :=
  match i with
  | .poll | .setkv _ | .setki _ => false
  | .getveff | .getvdiv | .getieff | .getvsh | .getpact | .getpapp | .getpf | .getpfr | .getpfa | .getkwh
  | .getok | .getfrm _ | .ill => true

/-- What the registers of the state machine mean in each of its states (40_frame_sync_fsm.md R111 to R118). -/
def fsmInv (s : State) : Prop :=
  match s.fsm with
  | .idle => True
  | .settle | .sample => s.q ≠ []
  | .read => s.byteIdx.toNat < 24 ∧ 24 ≤ s.byteIdx.toNat + s.q.length ∧
      s.csumAcc = csUpTo s.fbuf s.byteIdx.toNat
  | .vsync => s.csumAcc = cs s.fbuf
  | .vsum => s.csumAcc = cs s.fbuf ∧ syncOk s.fbuf = true
  | .commit => syncOk s.fbuf = true ∧ sumOk s.fbuf = true
  | .drain => s.pendStatus = .partialFrame ∨ s.pendStatus = .sync

/-- The response port: nothing while busy (10_state.md R33), and a diagnostic exactly where the response's status has one
(60_exceptions.md R216). -/
def portInv (s : State) : Prop :=
  (s.busy = true → s.rsp = none) ∧ s.diag = s.rsp.bind fun r => r.status.diag

/-- The invariant of the machine: the frame buffer is canonical (the model's layout, log 7), `busy` is 1 exactly while a POLL
is in progress (DESIGN CHOICE, log 11: R32 sets it for every command, and the model answers the others at their acceptance
edge; that IDLE is the state whenever no POLL is in progress is 10_state.md R30), the state machine's registers mean what
its state says, the ports agree, and a block that has parsed no frame holds the reset latch (R22, R40). -/
structure Inv (s : State) : Prop where
  fbuf : s.fbuf.wf = true
  busy : s.busy = true ↔ s.fsm ≠ .idle
  fsm : fsmInv s
  port : portInv s
  latch : s.latch.frameOk = false → s.latch = Latch.zero

/-- A transition of `fsm_state` that the graph of R119 has. -/
def fsmEdge (a b : FsmState) : Bool :=
  match a, b with
  | .idle, .idle | .idle, .settle | .settle, .settle | .settle, .sample | .sample, .drain | .sample, .read
  | .read, .read | .read, .vsync | .vsync, .drain | .vsync, .vsum | .vsum, .idle | .vsum, .commit
  | .commit, .idle | .drain, .drain | .drain, .idle => true
  | _, _ => false

/-- How many bytes reach the transport in the first `n` cycles of an environment that brings `arrivals k` in cycle `k`. -/
def arrived (arrivals : Nat → List Byte) (n : Nat) : Nat := ((List.range n).map fun k => (arrivals k).length).sum

/-- The fairness premise of 70_reset_and_hazards.md R243 and 93_implementation_defined.md U17, about the environment of a
drain that starts with `q` in the transport: there is a cycle, the `n`-th from 0, by which no more bytes have been there
than the `n` that the drain has thrown away before it, so that the drain sees `rx_avail = 0`. An environment that brings at
most one byte a cycle and none in infinitely many of them is fair (`drainFair_of_gaps`). It is a premise of claims and part
of no step (log 17). -/
def DrainFair (q : List Byte) (arrivals : Nat → List Byte) : Prop := ∃ n, q.length + arrived arrivals (n + 1) ≤ n

/-- How many clock cycles a POLL takes from the end of SAMPLE to its response, when no byte arrives in them and its
sampled queue is `q` and its frame, if it reads one, is `F` (R122). -/
def pollTailCycles (q : List Byte) (F : Memory) : Nat :=
  if q.length < 24 then q.length + 1
  else if syncOk F = false then 24 + 1 + (q.length - 24) + 1
  else if sumOk F = false then 24 + 1 + 1
  else 24 + 1 + 1 + 1

end Sys2Proof
end

