-- ==== Sys2Proof/Certificates/Slice0/Obligations.lean ====
section
/-! DEFINITION. The statements for the provers. Each docstring names the rule of spec/ it formalises. -/

open Sys2Proof Sys2Proof.Machine

/-! ### Encoding -/

/-- 30_encoding.md R80 to R82: decoding the encoding of a well-formed instruction gives it back, from the port's
triple and from the 9-bit word with the number beside it. The encoder's zeros in ignored fields are the model's
choice, log 15. -/
def Obligations.EncodedCommandsDecodeToThemselves : Prop :=
  ∀ i : Instr, WellFormed i = true →
    decodeCmd (encode i) = i ∧ decodeCmd (Cmd.ofWord (encode i).word (encode i).num) = i

/-- The other direction, R80 to R82: a command and the encoding of what it decodes to have the same opcode and the same
meaning, and agree in the operand that opcode reads. -/
def Obligations.EncodingKeepsOpcodeAndOperand : Prop :=
  ∀ c : Cmd, (encode (decodeCmd c)).op = c.op ∧ decodeCmd (encode (decodeCmd c)) = decodeCmd c ∧
    (c.op = 0xE → (encode (decodeCmd c)).idx = c.idx) ∧ (c.op = 1 ∨ c.op = 2 → (encode (decodeCmd c)).num = c.num)

/-- R82: the number is read only by the setters, taken as it is; the index only by `GETFRM`, as an unsigned offset;
every other command ignores both. -/
def Obligations.OpcodeAloneSelectsTheOperation : Prop :=
  ∀ (op : BitVec 4) (idx idx' : BitVec 5) (num num' : Sys2Proof.Num),
    (op ≠ 1 → op ≠ 2 → op ≠ 0xE → decodeCmd ⟨op, idx, num⟩ = decodeCmd ⟨op, idx', num'⟩) ∧
    decodeCmd ⟨1, idx, num⟩ = .setkv num ∧ decodeCmd ⟨2, idx, num⟩ = .setki num ∧
    decodeCmd ⟨0xE, idx, num⟩ = .getfrm idx.toNat

/-- Words of the opcode table (95_test_vectors.md T8), read by the decoder; that a word above 9 bits is refused is the
model's choice, log 15. -/
def Obligations.TableWordsDecodeAsTheTableSays : Prop :=
  decodeTableWord 16 0x000 = some .poll ∧ decodeTableWord 16 0x001 = some (.setkv 0) ∧
  decodeTableWord 16 0x003 = some .getveff ∧ decodeTableWord 16 0x1F3 = some .getveff ∧
  decodeTableWord 16 0x00C = some .getkwh ∧ decodeTableWord 16 0x14E = some (.getfrm 20) ∧
  decodeTableWord 16 0x1FE = some (.getfrm 31) ∧ decodeTableWord 16 0x00F = some .ill ∧
  decodeTableWord 16 0x200 = none

/-! ### The step -/

/-- What one step does with the first move of host and environment: a command the block is ready for is decoded and
executed as one step, a command it is not ready for waits while a clock cycle passes, and the other moves are a reset
edge, an arrival, and one clock cycle; with no move left a clock cycle passes. The moves are the model's own form of R11
and R89, log 2 and log 14. -/
def Obligations.StepRunsTheDecodedCommand : Prop :=
  ∀ (s : State) (cmd : Cmd) (arrivals bytes : List Byte) (c : CycleIn) (rest : List Input),
    (s.inputs = .command cmd arrivals :: rest → s.busy = false →
      step s = exec (decodeCmd cmd) { s with inputs := rest, arrivals := arrivals }) ∧
    (s.inputs = .command cmd arrivals :: rest → s.busy = true → step s = tick (CycleIn.bytes []) s) ∧
    (s.inputs = .reset :: rest → step s = .next (resetEdge { s with inputs := rest })) ∧
    (s.inputs = .feed bytes :: rest → step s = .next { s with inputs := rest, q := s.q ++ bytes }) ∧
    (s.inputs = .clock c :: rest → step s = tick c { s with inputs := rest }) ∧
    (s.inputs = [] → step s = tick (CycleIn.bytes []) s)

/-- A word of the opcode table placed as the next command runs as what the decoder reads from it, in every state. How
it is placed is the model's choice, log 2. -/
def Obligations.PlacedWordRunsNext : Prop :=
  ∀ (s : State) (nbits w : Nat) (i : Instr), decodeTableWord nbits w = some i →
    step (s.withFetchWord nbits w) = exec i { s with busy := false, fsm := .idle, arrivals := [] }

/-! ### POLL, the operation -/

/-- R101: with no byte in the transport no state of the block changes, nothing is popped and nothing is awaited, and the
response is NODATA without a diagnostic (`arrivals` is the model's own field, log 3). -/
def Obligations.PollWithoutBytesAnswersNoData : Prop :=
  ∀ s : State, s.q = [] →
    ∃ a, exec .poll s = .next { s with
      arrivals := a, rsp := some { status := .nodata, result := .empty }, diag := none, busy := false }

/-- R102, R103: fewer than 24 bytes at the sample point are thrown away and the response is PARTIAL; frame buffer, latch
and coefficients keep their values. -/
def Obligations.PollShortOfAFrameAnswersPartial : Prop :=
  ∀ s : State, s.q ≠ [] → (sampled s).length < 24 →
    ∃ t, exec .poll s = .next t ∧ t.q = [] ∧ t.fbuf = s.fbuf ∧ t.latch = s.latch ∧ t.kv = s.kv ∧ t.ki = s.ki ∧
      t.rsp = some { status := .partialFrame, result := .empty } ∧ t.diag = none ∧ t.busy = false ∧ t.fsm = .idle

/-- R104, R105: a frame whose byte 1 is not the sentinel is read into the frame buffer, the rest of the transport is
thrown away, the latch keeps its value, and the response is SYNC without a diagnostic. -/
def Obligations.PollWithWrongSentinelAnswersSync : Prop :=
  ∀ s : State, s.fbuf.wf = true → s.q ≠ [] → 24 ≤ (sampled s).length → frameAt (sampled s) 1 ≠ 0x5A →
    ∃ t, exec .poll s = .next t ∧ t.q = [] ∧ (∀ i, i < 24 → t.fbuf.read i = frameAt (sampled s) i) ∧
      t.latch = s.latch ∧ t.kv = s.kv ∧ t.ki = s.ki ∧
      t.rsp = some { status := .sync, result := .empty } ∧ t.diag = none ∧ t.busy = false ∧ t.fsm = .idle

/-- R104, R106, R108: a frame with the sentinel and a wrong checksum is read into the frame buffer, the bytes behind it
stay in the transport, the latch keeps its value, and the response is CHKSUM with its diagnostic. -/
def Obligations.PollWithWrongChecksumAnswersChksum : Prop :=
  ∀ s : State, s.fbuf.wf = true → s.q ≠ [] → 24 ≤ (sampled s).length → frameAt (sampled s) 1 = 0x5A →
    frameSum (sampled s) % 256 ≠ (frameAt (sampled s) 23).toNat →
    ∃ t, exec .poll s = .next t ∧ t.q = (sampled s).drop 24 ∧ (∀ i, i < 24 → t.fbuf.read i = frameAt (sampled s) i) ∧
      t.latch = s.latch ∧ t.kv = s.kv ∧ t.ki = s.ki ∧
      t.rsp = some { status := .chksum, result := .empty } ∧ t.diag = some .chksum ∧ t.busy = false ∧ t.fsm = .idle

/-- R104, R107, R108, R150: a valid frame is read into the frame buffer, the bytes behind it stay in the transport, the
latch is updated by commit, and the response is OK. -/
def Obligations.PollWithValidFrameCommits : Prop :=
  ∀ s : State, s.fbuf.wf = true → s.q ≠ [] → ValidFrame (sampled s) →
    ∃ t, exec .poll s = .next t ∧ t.q = (sampled s).drop 24 ∧ (∀ i, i < 24 → t.fbuf.read i = frameAt (sampled s) i) ∧
      t.latch = commit t.fbuf s.latch ∧ t.kv = s.kv ∧ t.ki = s.ki ∧
      t.rsp = some { status := .ok, result := .empty } ∧ t.diag = none ∧ t.busy = false ∧ t.fsm = .idle

/-- 60_exceptions.md R210 and 41_frame_validator_checksum.md R133: the order of the tests of a POLL, and that only OK
writes the latch. -/
def Obligations.PollTestsInOrder : Prop :=
  ∀ s : State, s.fbuf.wf = true →
    ∃ t st, exec .poll s = .next t ∧ t.rsp = some { status := st, result := .empty } ∧ t.diag = st.diag ∧
      (st = if s.q = [] then Status.nodata
        else if (sampled s).length < 24 then .partialFrame
        else if frameAt (sampled s) 1 ≠ 0x5A then .sync
        else if frameSum (sampled s) % 256 ≠ (frameAt (sampled s) 23).toNat then .chksum
        else .ok) ∧
      (st ≠ .ok → t.latch = s.latch) ∧ (st = .ok → t.latch.frameOk = true)

/-- 40_frame_sync_fsm.md R109 and the state table of R100, the frame of POLL: the coefficients, the moves to come and
the reset count keep their values; every byte of the frame buffer keeps its value where no frame was read, and where
one was read the 24 offsets hold it and every other address reads as before. `arrivals`, `inputs` and `draws` are the
model's own, logs 2, 3 and 6. -/
def Obligations.PollFrame : Prop :=
  ∀ s t : State, s.fbuf.wf = true → exec .poll s = .next t →
    t.kv = s.kv ∧ t.ki = s.ki ∧ t.inputs = s.inputs ∧ t.draws = s.draws ∧ t.arrivals = [] ∧ t.fbuf.wf = true ∧
    (s.q = [] ∨ (sampled s).length < 24 → ∀ a, t.fbuf.read a = s.fbuf.read a) ∧
    (s.q ≠ [] → 24 ≤ (sampled s).length →
      ∀ a, t.fbuf.read a = if a < 24 then frameAt (sampled s) a else s.fbuf.read a)

/-! ### The latch -/

/-- 43_telemetry_register_latch.md R151: the three parameters are loaded from every valid frame. -/
def Obligations.ValidFrameLoadsParameters : Prop :=
  ∀ s : State, s.fbuf.wf = true → s.q ≠ [] → ValidFrame (sampled s) →
    ∃ t, exec .poll s = .next t ∧
      t.latch.vp = be24 (frameAt (sampled s) 2) (frameAt (sampled s) 3) (frameAt (sampled s) 4) ∧
      t.latch.ip = be24 (frameAt (sampled s) 8) (frameAt (sampled s) 9) (frameAt (sampled s) 10) ∧
      t.latch.pp = be24 (frameAt (sampled s) 14) (frameAt (sampled s) 15) (frameAt (sampled s) 16)

/-- R152, R153, R154: the three registers are loaded if and only if their update bit is set, and keep their value
otherwise. -/
def Obligations.RegistersAreSticky : Prop :=
  ∀ s : State, s.fbuf.wf = true → s.q ≠ [] → ValidFrame (sampled s) →
    ∃ t, exec .poll s = .next t ∧
      t.latch.vr = (if (frameAt (sampled s) 20).getLsbD 6
        then be24 (frameAt (sampled s) 5) (frameAt (sampled s) 6) (frameAt (sampled s) 7) else s.latch.vr) ∧
      t.latch.ir = (if (frameAt (sampled s) 20).getLsbD 5
        then be24 (frameAt (sampled s) 11) (frameAt (sampled s) 12) (frameAt (sampled s) 13) else s.latch.ir) ∧
      t.latch.pr = (if (frameAt (sampled s) 20).getLsbD 4
        then be24 (frameAt (sampled s) 17) (frameAt (sampled s) 18) (frameAt (sampled s) 19) else s.latch.pr)

/-- R155: `pf` is loaded from every valid frame, and the counter is incremented by one modulo 2^32 if and only if bit
7 of byte 20 is set, whatever `pf` was or becomes. -/
def Obligations.OverflowCounterCountsBitSeven : Prop :=
  ∀ s : State, s.fbuf.wf = true → s.q ≠ [] → ValidFrame (sampled s) →
    ∃ t, exec .poll s = .next t ∧
      t.latch.pf = be16 (frameAt (sampled s) 21) (frameAt (sampled s) 22) ∧
      t.latch.pfOvfCnt.toNat = (if (frameAt (sampled s) 20).getLsbD 7
        then (s.latch.pfOvfCnt.toNat + 1) % 2 ^ 32 else s.latch.pfOvfCnt.toNat)

/-- R158: one step changes the latch only by a reset edge, which clears it, or by the commit of a frame that passed both
tests, which a POLL or the state COMMIT of one does and answers OK. -/
def Obligations.LatchWrittenOnlyByCommitAndReset : Prop :=
  ∀ s t : State, Inv s → step s = .next t →
    t.latch = s.latch ∨
    (t.latch = Latch.zero ∧ t.fsm = .idle ∧ t.rsp = none ∧
      ∃ rest, s.inputs = .reset :: rest ∨ ∃ c, s.inputs = .clock c :: rest ∧ c.rst = true) ∨
    (t.latch = commit t.fbuf s.latch ∧ syncOk t.fbuf = true ∧ sumOk t.fbuf = true ∧
      t.rsp = some { status := .ok, result := .empty } ∧
      (s.fsm = .commit ∨ ∃ cmd arrivals rest, s.inputs = .command cmd arrivals :: rest ∧ cmd.op = 0))

/-- R156: the success flag, once 1, stays 1 over every step that is no reset edge. -/
def Obligations.SuccessFlagFallsOnlyOnReset : Prop :=
  ∀ s t : State, step s = .next t → s.latch.frameOk = true →
    (∀ rest, s.inputs ≠ .reset :: rest) → (∀ c rest, s.inputs = .clock c :: rest → c.rst = false) →
    t.latch.frameOk = true

/-- R160: `GETOK` answers OK with the success flag and changes nothing else. -/
def Obligations.GetokReadsTheSuccessFlag : Prop :=
  ∀ s : State, exec .getok s = .next { s with
    rsp := some { status := .ok, result := .int (if s.latch.frameOk then 1 else 0) }, diag := none, busy := false }

/-- R161: `GETFRM` with an offset up to 23 answers OK with that byte of the frame buffer, and changes nothing else. -/
def Obligations.GetfrmReadsOneByte : Prop :=
  ∀ (s : State) (idx : Nat), idx ≤ 23 →
    ∃ v : Int48, v.toNat = (s.fbuf.read idx).toNat ∧ exec (.getfrm idx) s = .next { s with
      rsp := some { status := .ok, result := .int v }, diag := none, busy := false }

/-- 30_encoding.md R84: `GETFRM` with an offset of 24 or more answers ILLEGAL, changes no state and emits no
diagnostic. The rule speaks of 24 to 31; that an offset of 32 or more, which no command word carries, answers the same
is the model's choice, log 21. -/
def Obligations.GetfrmBeyondTheFrameIsIllegal : Prop :=
  ∀ (s : State) (idx : Nat), 24 ≤ idx →
    exec (.getfrm idx) s = .next { s with
      rsp := some { status := .illegal, result := .empty }, diag := none, busy := false }

/-- R83: the reserved opcode, whatever its operands, answers ILLEGAL, changes no state, pops no byte and emits no
diagnostic. -/
def Obligations.ReservedOpcodeAnswersIllegal : Prop :=
  ∀ (s : State) (c : Cmd), c.op = 0xF →
    exec (decodeCmd c) s = .next { s with
      rsp := some { status := .illegal, result := .empty }, diag := none, busy := false }

/-! ### The validator and the extractor -/

/-- 41_frame_validator_checksum.md R131: the checksum is the sum of the 21 bytes at offsets 2 to 22 modulo 256; the
sum is at most 5355. -/
def Obligations.ChecksumIsTheSumModulo256 : Prop :=
  ∀ F : Memory,
    (cs F).toNat = ((List.range 21).map fun k => (F.read (k + 2)).toNat).sum % 256 ∧
    ((List.range 21).map fun k => (F.read (k + 2)).toNat).sum ≤ 5355

/-- R134: adding the bytes one at a time into an 8-bit accumulator gives the checksum. -/
def Obligations.IncrementalChecksumAgrees : Prop :=
  ∀ F : Memory, csUpTo F 24 = cs F

/-- 42_big_endian_register_extractor.md R140, R141: the fields are big-endian and unsigned, as shifts and as sums. -/
def Obligations.FieldsAreBigEndian : Prop :=
  ∀ b0 b1 b2 : Byte,
    be24 b0 b1 b2 = (b0.setWidth 24 <<< 16 ||| b1.setWidth 24 <<< 8 ||| b2.setWidth 24) ∧
    (be24 b0 b1 b2).toNat = 65536 * b0.toNat + 256 * b1.toNat + b2.toNat ∧
    be16 b0 b1 = (b0.setWidth 16 <<< 8 ||| b1.setWidth 16) ∧
    (be16 b0 b1).toNat = 256 * b0.toNat + b1.toNat

/-- R145 and 30_encoding.md R90: the frame a FRAME line builds, read into the frame buffer, is valid and extracts to the
fields it was built from; BADCS fails only the checksum and BADSYNC only the sentinel. -/
def Obligations.BuiltFramesExtractToTheirFields : Prop :=
  ∀ (f : FrameFields) (m : Memory), m.wf = true →
    syncOk (m.writeFrom 0 f.frame) = true ∧ sumOk (m.writeFrom 0 f.frame) = true ∧
    extract (m.writeFrom 0 f.frame) =
      { state := f.st, check := 0x5A, vp := f.vp, vr := f.vr, ip := f.ip, ir := f.ir, pp := f.pp, pr := f.pr,
        flags := f.fl, pfOvf := f.fl.getLsbD 7, vUpd := f.fl.getLsbD 6, iUpd := f.fl.getLsbD 5,
        pUpd := f.fl.getLsbD 4, pf := f.pf, cs := cs (m.writeFrom 0 f.frame) } ∧
    syncOk (m.writeFrom 0 f.badcs) = true ∧ sumOk (m.writeFrom 0 f.badcs) = false ∧
    syncOk (m.writeFrom 0 f.badsync) = false ∧ sumOk (m.writeFrom 0 f.badsync) = true

/-! ### The scaler -/

/-- 44_calibration_coefficient_scaler.md R173, R174: a setter stores its number, whatever it is, answers OK, and changes
nothing else. -/
def Obligations.SettersStoreTheirNumber : Prop :=
  ∀ (s : State) (x : Sys2Proof.Num),
    exec (.setkv x) s = .next { s with
      kv := x, rsp := some { status := .ok, result := .empty }, diag := none, busy := false } ∧
    exec (.setki x) s = .next { s with
      ki := x, rsp := some { status := .ok, result := .empty }, diag := none, busy := false }

/-- R175, R177: `GETVDIV` and `GETVSH` answer the quotient of two raw registers, or DIV0 with the sentinel and one
diagnostic where the divisor register is 0. -/
def Obligations.RatioGettersAnswer : Prop :=
  ∀ s : State,
    exec .getvdiv s = .next (if s.latch.vr = 0
      then { s with rsp := some { status := .div0, result := .num (-1) }, diag := some .div0, busy := false }
      else { s with
        rsp := some { status := .ok, result := .num (Config.numerics.div
        (Config.numerics.ofNat s.latch.vp.toNat) (Config.numerics.ofNat s.latch.vr.toNat)) },
        diag := none, busy := false }) ∧
    exec .getvsh s = .next (if s.latch.ir = 0
      then { s with rsp := some { status := .div0, result := .num (-1) }, diag := some .div0, busy := false }
      else { s with
        rsp := some { status := .ok, result := .num (Config.numerics.div
        (Config.numerics.ofNat s.latch.ip.toNat) (Config.numerics.ofNat s.latch.ir.toNat)) },
        diag := none, busy := false })

/-- R176, R178: `GETVEFF` and `GETIEFF` answer the quotient times their coefficient, or DIV0. -/
def Obligations.ScaledRatioGettersAnswer : Prop :=
  ∀ s : State,
    exec .getveff s = .next (if s.latch.vr = 0
      then { s with rsp := some { status := .div0, result := .num (-1) }, diag := some .div0, busy := false }
      else { s with
        rsp := some { status := .ok, result := .num (Config.numerics.mul (Config.numerics.div
        (Config.numerics.ofNat s.latch.vp.toNat) (Config.numerics.ofNat s.latch.vr.toNat)) s.kv) },
        diag := none, busy := false }) ∧
    exec .getieff s = .next (if s.latch.ir = 0
      then { s with rsp := some { status := .div0, result := .num (-1) }, diag := some .div0, busy := false }
      else { s with
        rsp := some { status := .ok, result := .num (Config.numerics.mul (Config.numerics.div
        (Config.numerics.ofNat s.latch.ip.toNat) (Config.numerics.ofNat s.latch.ir.toNat)) s.ki) },
        diag := none, busy := false })

/-- R179: `GETPACT` answers `(ratio(pp, pr) * kv) * ki`, or DIV0 where `pr` is 0; the voltage and current registers play
no part. -/
def Obligations.ActivePowerGetterAnswers : Prop :=
  ∀ s : State, exec .getpact s = .next (if s.latch.pr = 0
    then { s with rsp := some { status := .div0, result := .num (-1) }, diag := some .div0, busy := false }
    else { s with
        rsp := some { status := .ok, result := .num (Config.numerics.mul (Config.numerics.mul
      (Config.numerics.div (Config.numerics.ofNat s.latch.pp.toNat) (Config.numerics.ofNat s.latch.pr.toNat))
      s.kv) s.ki) }, diag := none, busy := false })

/-- R180: `GETPAPP` answers the product of the values of `GETVEFF` and `GETIEFF`, or DIV0 with one diagnostic where
either is DIV0; it is never a product of sentinels. -/
def Obligations.ApparentPowerGetterAnswers : Prop :=
  ∀ s : State, exec .getpapp s = .next (if s.latch.vr = 0 ∨ s.latch.ir = 0
    then { s with rsp := some { status := .div0, result := .num (-1) }, diag := some .div0, busy := false }
    else { s with
        rsp := some { status := .ok, result := .num (Config.numerics.mul
      (Config.numerics.mul (Config.numerics.div (Config.numerics.ofNat s.latch.vp.toNat)
        (Config.numerics.ofNat s.latch.vr.toNat)) s.kv)
      (Config.numerics.mul (Config.numerics.div (Config.numerics.ofNat s.latch.ip.toNat)
        (Config.numerics.ofNat s.latch.ir.toNat)) s.ki)) }, diag := none, busy := false })

/-- R181: `GETPF` answers active over apparent power, or DIV0 where `pr`, `vr` or `ir` is 0 or the apparent power is
zero. -/
def Obligations.PowerFactorGetterAnswers : Prop :=
  ∀ (s : State) (a b : Sys2Proof.Num),
    a = Config.numerics.mul (Config.numerics.mul (Config.numerics.div (Config.numerics.ofNat s.latch.pp.toNat)
      (Config.numerics.ofNat s.latch.pr.toNat)) s.kv) s.ki →
    b = Config.numerics.mul
      (Config.numerics.mul (Config.numerics.div (Config.numerics.ofNat s.latch.vp.toNat)
        (Config.numerics.ofNat s.latch.vr.toNat)) s.kv)
      (Config.numerics.mul (Config.numerics.div (Config.numerics.ofNat s.latch.ip.toNat)
        (Config.numerics.ofNat s.latch.ir.toNat)) s.ki) →
    exec .getpf s = .next (if s.latch.pr = 0 ∨ s.latch.vr = 0 ∨ s.latch.ir = 0 ∨ Config.numerics.isZero b = true
      then { s with rsp := some { status := .div0, result := .num (-1) }, diag := some .div0, busy := false }
      else { s with
        rsp := some { status := .ok, result := .num (Config.numerics.div a b) },
        diag := none, busy := false })

/-- R182, R183: `GETPFR` answers the power-factor register and `GETPFA` the exact product of counter and register, which
fits the 48-bit port; neither changes anything else. -/
def Obligations.IntegerGettersAnswerExactly : Prop :=
  ∀ s : State,
    (∃ v : Int48, v.toNat = s.latch.pf.toNat ∧ exec .getpfr s = .next { s with
      rsp := some { status := .ok, result := .int v }, diag := none, busy := false }) ∧
    (∃ v : Int48, v.toNat = s.latch.pfOvfCnt.toNat * s.latch.pf.toNat ∧ exec .getpfa s = .next { s with
      rsp := some { status := .ok, result := .int v }, diag := none, busy := false })

/-- R184: `GETKWH` answers the product of counter and register over the pulse count, each of the three divisions guarded
by itself. -/
def Obligations.EnergyGetterAnswers : Prop :=
  ∀ (s : State) (kk pulses : Sys2Proof.Num),
    kk = Config.numerics.mul s.kv s.ki →
    pulses = Config.numerics.mul (Config.numerics.mul (Config.numerics.mul
      (Config.numerics.div (Config.numerics.ofNat 1) (Config.numerics.ofNat s.latch.pp.toNat))
      (Config.numerics.div (Config.numerics.ofNat 1) kk))
      (Config.numerics.ofNat 1000000000)) (Config.numerics.ofNat 3600) →
    exec .getkwh s = .next
      (if s.latch.pp = 0 ∨ Config.numerics.isZero kk = true ∨ Config.numerics.isZero pulses = true
      then { s with rsp := some { status := .div0, result := .num (-1) }, diag := some .div0, busy := false }
      else { s with
        rsp := some { status := .ok, result := .num (Config.numerics.div
        (Config.numerics.ofNat (s.latch.pfOvfCnt.toNat * s.latch.pf.toNat)) pulses) }, diag := none, busy := false })

/-- R184, in the reference instance: where `pp` and both coefficients are not zero no guard fires, and the energy is
`pf_ovf_cnt * pf * pp * kv * ki / 3600000000000`. -/
def Obligations.EnergyInTheReferenceInstance : Prop :=
  ∀ s : State, s.latch.pp ≠ 0 → s.kv ≠ 0 → s.ki ≠ 0 →
    energyKWh exactNumerics s = .val ((s.latch.pfOvfCnt.toNat : Rat) * (s.latch.pf.toNat : Rat) *
      (s.latch.pp.toNat : Rat) * s.kv * s.ki / 3600000000000)

/-- R181, in the reference instance: the guards fire exactly where `pr`, `vr`, `ir`, `vp`, `ip`, `kv` or `ki` is zero,
and otherwise the coefficients cancel. -/
def Obligations.PowerFactorInTheReferenceInstance : Prop :=
  ∀ s : State,
    (s.latch.pr = 0 ∨ s.latch.vr = 0 ∨ s.latch.ir = 0 ∨ s.latch.vp = 0 ∨ s.latch.ip = 0 ∨ s.kv = 0 ∨ s.ki = 0 →
      powerFactor exactNumerics s = .div0) ∧
    (s.latch.pr ≠ 0 → s.latch.vr ≠ 0 → s.latch.ir ≠ 0 → s.latch.vp ≠ 0 → s.latch.ip ≠ 0 → s.kv ≠ 0 → s.ki ≠ 0 →
      powerFactor exactNumerics s = .val (((s.latch.pp.toNat : Rat) / (s.latch.pr.toNat : Rat)) /
        (((s.latch.vp.toNat : Rat) / (s.latch.vr.toNat : Rat)) * ((s.latch.ip.toNat : Rat) / (s.latch.ir.toNat : Rat)))))

/-- R187: where a register that divides is 0, every getter that depends on it answers DIV0 with the sentinel, in every
numeric instance. -/
def Obligations.ZeroRegisterReachesEveryDependentGetter : Prop :=
  ∀ (s : State) (i : Instr),
    (s.latch.vr = 0 ∧ i ∈ [Instr.getvdiv, .getveff, .getpapp, .getpf]) ∨
    (s.latch.ir = 0 ∧ i ∈ [Instr.getvsh, .getieff, .getpapp, .getpf]) ∨
    (s.latch.pr = 0 ∧ i ∈ [Instr.getpact, .getpf]) ∨ (s.latch.pp = 0 ∧ i = .getkwh) →
    exec i s = .next { s with
      rsp := some { status := .div0, result := .num (-1) }, diag := some .div0, busy := false }

/-! ### All commands -/

/-- R186, R158 and R83, the frame of the thirteen commands that only read: the next state is the present one with a
response, that response's diagnostic, and `busy` low. -/
def Obligations.ReadersLeaveTheBlockUnchanged : Prop :=
  ∀ (i : Instr) (s : State), isReader i = true →
    ∃ r : Response, exec i s = .next { s with rsp := some r, diag := r.status.diag, busy := false }

/-- R186: the same reader issued twice answers the same, and the second one changes nothing at all. -/
def Obligations.ReaderIssuedTwiceAnswersTheSame : Prop :=
  ∀ (i : Instr) (s t : State), isReader i = true → exec i s = .next t → exec i t = .next t

/-- 60_exceptions.md R200, R203, 44 R185: every command, in every state, completes with one response whose status is
one the command may return, with at most the diagnostic of that status, and leaves the block ready. (`GETFRM` with an
offset of 32 or more, which no command word carries, is log 21.) -/
def Obligations.EveryCommandAnswersWithAnAllowedStatus : Prop :=
  ∀ (i : Instr) (s : State),
    ∃ t r, exec i s = .next t ∧ t.rsp = some r ∧ mayAnswer i r.status = true ∧ t.diag = r.status.diag ∧
      t.busy = false ∧ t.draws = s.draws ∧ t.inputs = s.inputs

/-- 30_encoding.md R86, R87, R88, 60_exceptions.md R216: the code of each status on the status port, which result port
the response of each command drives, and that the diagnostic port shows code 4 with a CHKSUM response, code 5 with a
DIV0 response, and nothing with any other. A port the rule leaves undefined has no value (log 9). -/
def Obligations.ResponsesDriveTheirPorts : Prop :=
  ∀ (i : Instr) (s : State),
    ∃ t r, exec i s = .next t ∧ t.rsp = some r ∧ rspValid t = true ∧ cmdReady t = true ∧
      (r.status, rspStatus t) ∈ [(Status.ok, some 0), (.nodata, some 1), (.partialFrame, some 2), (.sync, some 3),
        (.chksum, some 4), (.div0, some 5), (.illegal, some 6)] ∧
      (i ∈ [Instr.getveff, .getvdiv, .getieff, .getvsh, .getpact, .getpapp, .getpf, .getkwh] →
        (rspNum t).isSome = true ∧ rspInt t = none ∧ (rspStatus t = some 5 → rspNum t = some (-1))) ∧
      (i ∈ [Instr.getpfr, .getpfa, .getok] ∨ (∃ idx, i = .getfrm idx ∧ idx < 24) →
        rspStatus t = some 0 ∧ (rspInt t).isSome = true ∧ rspNum t = none) ∧
      (i = .poll ∨ (∃ x, i = .setkv x ∨ i = .setki x) ∨ rspStatus t = some 6 → rspNum t = none ∧ rspInt t = none) ∧
      diagCode t = (if rspStatus t = some 4 then some 4 else if rspStatus t = some 5 then some 5 else none) ∧
      diagValid t = (diagCode t).isSome

/-- 10_state.md R24, R33: one step changes the voltage coefficient only by a `SETKV` of the new value that is offered
and accepted or by a reset edge, and the current coefficient only by such a `SETKI` or a reset edge. That the change
comes in the cycle that offers the setter, its acceptance edge, is the model's choice, log 11 (R120 puts it at the
response edge, `L >= 1` cycles later); the moves are the model's own form, log 2. -/
def Obligations.CoefficientsWrittenOnlyBySettersAndReset : Prop :=
  ∀ s t : State, step s = .next t →
    (t.kv ≠ s.kv → ∃ rest, s.inputs = .reset :: rest ∨
      (∃ c, s.inputs = .clock c :: rest ∧
        (c.rst = true ∨ (c.cmdValid = true ∧ s.busy = false ∧ decodeCmd c.cmd = .setkv t.kv))) ∨
      ∃ c a, s.inputs = .command c a :: rest ∧ s.busy = false ∧ decodeCmd c = .setkv t.kv) ∧
    (t.ki ≠ s.ki → ∃ rest, s.inputs = .reset :: rest ∨
      (∃ c, s.inputs = .clock c :: rest ∧
        (c.rst = true ∨ (c.cmdValid = true ∧ s.busy = false ∧ decodeCmd c.cmd = .setki t.ki))) ∨
      ∃ c a, s.inputs = .command c a :: rest ∧ s.busy = false ∧ decodeCmd c = .setki t.ki)

/-! ### Reset -/

/-- 70_reset_and_hazards.md R231, 10_state.md R40: the values after a reset edge, at power-up and in every state; the
coefficients take the OPEN parameters KV_RESET and KI_RESET. -/
def Obligations.ResetValues : Prop :=
  ∀ t : State, t = State.reset ∨ (∃ s, t = resetEdge s) →
    t.latch = { vp := 0, vr := 0, ip := 0, ir := 0, pp := 0, pr := 0, pf := 0, pfOvfCnt := 0, frameOk := false } ∧
    (∀ i, t.fbuf.read i = 0) ∧ t.kv = Config.kvReset ∧ t.ki = Config.kiReset ∧ t.fsm = .idle ∧ t.byteIdx = 0 ∧
    t.busy = false ∧ rspValid t = false ∧ diagValid t = false ∧ rxPop t = false ∧ cmdReady t = true

/-- R232, R233: reset in any cycle abandons a command in progress without response or diagnostic, commits nothing,
clears the frame buffer, and leaves the transport its bytes, those that arrive in the cycle included. That a cycle of
READ or DRAIN, in which `rx_pop` is 1, leaves its byte in `Q` too is the model's choice, log 20. -/
def Obligations.ResetAbandonsTheCommandAndKeepsTheTransport : Prop :=
  ∀ (s : State) (c : CycleIn), c.rst = true →
    ∃ t, tick c s = .next t ∧ t.q = s.q ++ c.arrivals ∧ t.rsp = none ∧ t.diag = none ∧ t.latch = Latch.zero ∧
      (∀ i, t.fbuf.read i = 0) ∧ t.kv = Config.kvReset ∧ t.ki = Config.kiReset ∧ t.fsm = .idle ∧ t.byteIdx = 0 ∧
      t.busy = false

/-- 10_state.md R41: what every getter answers immediately after a reset edge, at power-up and in every state,
whatever the transport holds. -/
def Obligations.GettersRightAfterReset : Prop :=
  ∀ s : State, s = State.reset ∨ (∃ u, s = resetEdge u) →
  (∀ i ∈ [Instr.getveff, .getvdiv, .getieff, .getvsh, .getpact, .getpapp, .getpf, .getkwh],
    ∃ t, exec i s = .next t ∧ t.rsp = some { status := .div0, result := .num (-1) }) ∧
  (∀ i ∈ [Instr.getpfr, .getpfa, .getok],
    ∃ t, exec i s = .next t ∧ t.rsp = some { status := .ok, result := .int 0 }) ∧
  (∀ idx, idx ≤ 23 →
    ∃ t, exec (.getfrm idx) s = .next t ∧ t.rsp = some { status := .ok, result := .int 0 })

/-! ### The state machine, cycle by cycle -/

/-- 40_frame_sync_fsm.md R111: IDLE. That the bytes of a cycle are seen in it is log 13, and that a command other than
`POLL` is executed at its acceptance edge is the model's choice, log 11. -/
def Obligations.IdleCycle : Prop :=
  ∀ (s : State) (c : CycleIn), s.fsm = .idle → s.busy = false → c.rst = false →
    (c.cmdValid = false → tick c s = .next { s with q := s.q ++ c.arrivals, rsp := none, diag := none }) ∧
    (c.cmdValid = true → c.cmd.op = 0 → s.q ++ c.arrivals = [] → tick c s = .next { s with
      q := [], rsp := some { status := .nodata, result := .empty }, diag := none }) ∧
    (c.cmdValid = true → c.cmd.op = 0 → s.q ++ c.arrivals ≠ [] → tick c s = .next { s with
      q := s.q ++ c.arrivals, rsp := none, diag := none, fsm := .settle, settleCnt := Config.settleCycles,
      busy := true }) ∧
    (c.cmdValid = true → c.cmd.op ≠ 0 →
      tick c s = exec (decodeCmd c.cmd) { s with q := s.q ++ c.arrivals, rsp := none, diag := none })

/-- R112, R113: SETTLE and SAMPLE (the bytes of a cycle are seen in it, log 13). -/
def Obligations.SettleAndSampleCycles : Prop :=
  ∀ (s u : State) (c : CycleIn), c.rst = false →
    u = { s with q := s.q ++ c.arrivals, rsp := none, diag := none } →
    (s.fsm = .settle → tick c s = .next (if s.settleCnt = 0 then { u with fsm := .sample }
      else { u with settleCnt := s.settleCnt - 1 })) ∧
    (s.fsm = .sample → tick c s = .next (if u.q.length < 24
      then { u with nSample := rxAvail u, pendStatus := .partialFrame, fsm := .drain }
      else { u with nSample := rxAvail u, byteIdx := 0, csumAcc := 0, fsm := .read }))

/-- R114: READ pops the oldest byte into the frame buffer at `byte_idx`, adds it to the checksum for offsets 2 to 22,
and goes to VSYNC after the 24th byte (the bytes of a cycle are seen in it, log 13). -/
def Obligations.ReadCycle : Prop :=
  ∀ (s : State) (c : CycleIn) (b : Byte) (rest : List Byte), s.fsm = .read → c.rst = false →
    s.q ++ c.arrivals = b :: rest → s.byteIdx.toNat ≤ 23 →
    ∃ t, tick c s = .next t ∧ t.q = rest ∧ t.fbuf = s.fbuf.write s.byteIdx.toNat b ∧
      t.csumAcc.toNat = (if 2 ≤ s.byteIdx.toNat ∧ s.byteIdx.toNat ≤ 22
        then (s.csumAcc.toNat + b.toNat) % 256 else s.csumAcc.toNat) ∧
      t.byteIdx.toNat = s.byteIdx.toNat + 1 ∧ t.fsm = (if s.byteIdx.toNat = 23 then .vsync else .read) ∧
      t.latch = s.latch ∧ t.kv = s.kv ∧ t.ki = s.ki ∧ t.busy = s.busy ∧ t.rsp = none ∧ t.diag = none

/-- R115, R116, R117, R118: VSYNC, VSUM, COMMIT and DRAIN (the bytes of a cycle are seen in it, log 13). -/
def Obligations.ValidateCommitAndDrainCycles : Prop :=
  ∀ (s u : State) (c : CycleIn), c.rst = false →
    u = { s with q := s.q ++ c.arrivals, rsp := none, diag := none } →
    (s.fsm = .vsync → tick c s = .next (if s.fbuf.read 1 ≠ 0x5A then { u with pendStatus := .sync, fsm := .drain }
      else { u with fsm := .vsum })) ∧
    (s.fsm = .vsum → tick c s = .next (if s.csumAcc ≠ s.fbuf.read 23
      then { u with
        rsp := some { status := .chksum, result := .empty }, diag := some .chksum, busy := false, fsm := .idle }
      else { u with fsm := .commit })) ∧
    (s.fsm = .commit → tick c s = .next { u with
      latch := commit s.fbuf s.latch, rsp := some { status := .ok, result := .empty }, busy := false, fsm := .idle }) ∧
    (s.fsm = .drain → tick c s = .next (if u.q = []
      then { u with rsp := some { status := s.pendStatus, result := .empty }, diag := s.pendStatus.diag,
                    busy := false, fsm := .idle }
      else { u with q := u.q.tail }))

/-- R119: a clock cycle moves `fsm_state` along an edge of the transition graph, or to IDLE on reset. -/
def Obligations.FsmFollowsTheTransitionGraph : Prop :=
  ∀ (s t : State) (c : CycleIn), tick c s = .next t →
    if c.rst then t.fsm = .idle else fsmEdge s.fsm t.fsm = true

/-- 10_state.md R33: while the block is busy nothing offered on the command port is accepted or remembered. -/
def Obligations.BusyBlockIgnoresOffers : Prop :=
  ∀ (s : State) (c : CycleIn), s.busy = true →
    tick c s = tick { c with cmdValid := false, cmd := { op := 0, idx := 0, num := 0 } } s

/-- 20_memory.md R51, 40_frame_sync_fsm.md R114, R118: `rx_pop` is 1 in every cycle of READ, in every cycle of DRAIN
with a byte there, and in no other; and where the invariant holds a byte is there whenever it is 1. -/
def Obligations.BlockNeverPopsAnEmptyTransport : Prop :=
  ∀ s : State, (rxPop s = true ↔ s.fsm = .read ∨ (s.fsm = .drain ∧ rxAvail s ≠ 0)) ∧
    (Inv s → rxPop s = true → rxAvail s ≠ 0)

/-- 20_memory.md R50, R53, 40_frame_sync_fsm.md R111 to R118: what a clock cycle does to the transport. Where `rx_pop`
is 1 the cycle takes `rx_data`, the oldest byte, from `Q`, and where it is 0 no byte leaves. The ports are those of
the state with the bytes of the cycle in `Q` (log 13). That a cycle with `rst` takes no byte although `rx_pop` is 1 in
READ and DRAIN is the model's choice, log 20. -/
def Obligations.EachPopTakesTheOldestByte : Prop :=
  ∀ (s t : State) (c : CycleIn), tick c s = .next t →
    (c.rst = false → rxPop (feed c.arrivals s) = true →
      ∃ b, rxData (feed c.arrivals s) = some b ∧ s.q ++ c.arrivals = b :: t.q) ∧
    (c.rst = true ∨ rxPop (feed c.arrivals s) = false → t.q = s.q ++ c.arrivals)

/-- 10_state.md R23, R30, R35, 30_encoding.md R86, R88, 40_frame_sync_fsm.md R110: the ports in every state.
`fsm_state_q` and, while they are defined, `rsp_status` and `diag_code` show the codes of the tables; `rsp_valid`,
`diag_valid`, `cmd_ready` and the latch ports show their registers; `rx_data` is the oldest byte of `Q`. That a port
the spec leaves undefined has no value is log 9. -/
def Obligations.PortsShowTheState : Prop :=
  ∀ s : State,
    (s.fsm, fsmStateQ s) ∈ [(FsmState.idle, 0), (.settle, 1), (.sample, 2), (.read, 3), (.vsync, 4), (.vsum, 5),
      (.commit, 6), (.drain, 7)] ∧
    latchQ s = s.latch ∧ cmdReady s = !s.busy ∧
    (s.rsp = none → rspValid s = false ∧ rspStatus s = none ∧ rspNum s = none ∧ rspInt s = none) ∧
    (∀ r, s.rsp = some r → rspValid s = true ∧
      (r.status, rspStatus s) ∈ [(Status.ok, some 0), (.nodata, some 1), (.partialFrame, some 2), (.sync, some 3),
        (.chksum, some 4), (.div0, some 5), (.illegal, some 6)] ∧
      (∀ x, r.result = .num x → rspNum s = some x) ∧ (∀ v, r.result = .int v → rspInt s = some v)) ∧
    (s.diag = none → diagValid s = false ∧ diagCode s = none) ∧
    (∀ d, s.diag = some d → diagValid s = true ∧ (d, diagCode s) ∈ [(Diag.chksum, some 4), (.div0, some 5)]) ∧
    (s.q = [] → rxData s = none) ∧ (∀ b rest, s.q = b :: rest → rxData s = some b)

/-- 40_frame_sync_fsm.md R103, 20_memory.md R50: the saturated count answers the two questions the block asks as the
length of the queue does. -/
def Obligations.SaturatedCountDecidesAsTheLength : Prop :=
  ∀ s : State, (rxAvail s).toNat = min s.q.length 255 ∧ (rxAvail s < 24 ↔ s.q.length < 24) ∧
    (rxAvail s = 0 ↔ s.q = [])

/-! ### Whole-machine rules -/

/-- The reset state meets the invariant (`Inv`: its clauses on `busy` and on the canonical buffer are the model's
choices, logs 11 and 7). -/
def Obligations.InvariantHoldsAtReset : Prop := Inv State.reset

/-- Every step keeps the invariant. Its clause that `busy` is 1 exactly while a POLL is in progress is the model's
choice, log 11 (R32 and R120 have it 1 for every command until its response), and the canonical form of the frame
buffer is the model's layout, log 7. -/
def Obligations.StepKeepsTheInvariant : Prop :=
  ∀ s t : State, Inv s → step s = .next t → Inv t

/-- 00_scope.md R12, 60_exceptions.md R200: from a state that meets the invariant the machine never stops. R12 and
70_reset_and_hazards.md R243: the only unbounded loop is the drain, and under the fairness premise (`DrainFair`) a drain
ends with its response and an empty transport, whatever is offered meanwhile; without the premise (U17) it goes on for
ever. The premise is about an environment's whole future, so the drain is stated over clock cycles and not over the
finitely many moves of a state (log 17); the bytes of a cycle are seen in it (log 13). -/
def Obligations.SoundStateNeverStops : Prop :=
  (∀ s : State, Inv s → ∃ t, step s = .next t) ∧
  ∀ (s : State) (cycles : Nat → CycleIn), s.fsm = .drain → (∀ k, (cycles k).rst = false) →
    (DrainFair s.q (fun k => (cycles k).arrivals) →
      ∃ n t, runCycles ((List.range (n + 1)).map cycles) s = .next t ∧ t.fsm = .idle ∧ t.busy = false ∧ t.q = [] ∧
        t.latch = s.latch ∧ t.fbuf = s.fbuf ∧ t.rsp = some { status := s.pendStatus, result := .empty }) ∧
    (¬ DrainFair s.q (fun k => (cycles k).arrivals) →
      ∀ n, ∃ t, runCycles ((List.range n).map cycles) s = .next t ∧ t.fsm = .drain)

/-- 40_frame_sync_fsm.md R121, R122: a POLL accepted in IDLE, with bytes arriving in the acceptance cycle, in the
settle wait and in SAMPLE and none later, brings the state machine, after exactly the cycles R122 counts, to the state
and the response of the atomic operation for those arrivals. R100 and R121 say so of the architectural state, `Q` and
the response; that the five helper registers (`byte_idx`, `settle_cnt`, `n_sample`, `csum_acc`, `pend_status`) agree
too, so that the states are equal, rests on what the model's atomic POLL leaves in them, log 12 (U8 gives them any
value); that the bytes of a cycle are seen in it is log 13. -/
def Obligations.StateMachineRefinesPoll : Prop :=
  ∀ (s t : State) (cmd : Cmd) (first : List Byte) (settle : List (List Byte)),
    s.fbuf.wf = true → s.fsm = .idle → s.busy = false → s.arrivals = [] → cmd.op = 0 →
    s.q ++ first ≠ [] → settle.length = Config.settleCycles + 2 →
    exec .poll { s with q := s.q ++ first, arrivals := settle.flatten } = .next t →
    runCycles (CycleIn.offer cmd first :: settle.map CycleIn.bytes ++
      List.replicate (pollTailCycles (s.q ++ first ++ settle.flatten) t.fbuf) (CycleIn.bytes [])) s = .next t

/-- R121, the bytes that arrive after the sample point of a POLL that ends OK or CHKSUM: they stay in the transport,
and nothing else of the outcome depends on them. That the helper registers agree too rests on log 12, as in the
refinement; that the atomic POLL takes no byte behind its sample point is log 17, and that the bytes of a cycle are
seen in it log 13. Late bytes of a POLL that ends PARTIAL or SYNC are thrown away by the cycles of DRAIN
(`ValidateCommitAndDrainCycles`). -/
def Obligations.LateBytesStayInTheTransport : Prop :=
  ∀ (s t : State) (cmd : Cmd) (first : List Byte) (settle late : List (List Byte)),
    s.fbuf.wf = true → s.fsm = .idle → s.busy = false → s.arrivals = [] → cmd.op = 0 →
    s.q ++ first ≠ [] → settle.length = Config.settleCycles + 2 →
    24 ≤ (s.q ++ first ++ settle.flatten).length → frameAt (s.q ++ first ++ settle.flatten) 1 = 0x5A →
    exec .poll { s with q := s.q ++ first, arrivals := settle.flatten } = .next t →
    late.length = pollTailCycles (s.q ++ first ++ settle.flatten) t.fbuf →
    runCycles (CycleIn.offer cmd first :: settle.map CycleIn.bytes ++ late.map CycleIn.bytes) s =
      .next { t with q := t.q ++ late.flatten }
end

