-- ==== Sys2Proof/Laws/State.lean ====
section
/-! SUPPORT. One lemma per field per update of the state, so that no later proof unfolds a record update. -/

namespace Sys2Proof.Machine

@[simp] theorem respond_latch (st : Status) (r : Result) (s : State) : (respond st r s).latch = s.latch := rfl
@[simp] theorem respond_kv (st : Status) (r : Result) (s : State) : (respond st r s).kv = s.kv := rfl
@[simp] theorem respond_ki (st : Status) (r : Result) (s : State) : (respond st r s).ki = s.ki := rfl
@[simp] theorem respond_fbuf (st : Status) (r : Result) (s : State) : (respond st r s).fbuf = s.fbuf := rfl
@[simp] theorem respond_q (st : Status) (r : Result) (s : State) : (respond st r s).q = s.q := rfl
@[simp] theorem respond_fsm (st : Status) (r : Result) (s : State) : (respond st r s).fsm = s.fsm := rfl
@[simp] theorem respond_byteIdx (st : Status) (r : Result) (s : State) : (respond st r s).byteIdx = s.byteIdx := rfl
@[simp] theorem respond_busy (st : Status) (r : Result) (s : State) : (respond st r s).busy = false := rfl
@[simp] theorem respond_settleCnt (st : Status) (r : Result) (s : State) :
    (respond st r s).settleCnt = s.settleCnt := rfl
@[simp] theorem respond_nSample (st : Status) (r : Result) (s : State) : (respond st r s).nSample = s.nSample := rfl
@[simp] theorem respond_csumAcc (st : Status) (r : Result) (s : State) : (respond st r s).csumAcc = s.csumAcc := rfl
@[simp] theorem respond_pendStatus (st : Status) (r : Result) (s : State) :
    (respond st r s).pendStatus = s.pendStatus := rfl
@[simp] theorem respond_rsp (st : Status) (r : Result) (s : State) :
    (respond st r s).rsp = some { status := st, result := r } := rfl
@[simp] theorem respond_diag (st : Status) (r : Result) (s : State) : (respond st r s).diag = st.diag := rfl
@[simp] theorem respond_arrivals (st : Status) (r : Result) (s : State) :
    (respond st r s).arrivals = s.arrivals := rfl
@[simp] theorem respond_inputs (st : Status) (r : Result) (s : State) : (respond st r s).inputs = s.inputs := rfl
@[simp] theorem respond_draws (st : Status) (r : Result) (s : State) : (respond st r s).draws = s.draws := rfl

@[simp] theorem pulsesFall_latch (s : State) : (pulsesFall s).latch = s.latch := rfl
@[simp] theorem pulsesFall_kv (s : State) : (pulsesFall s).kv = s.kv := rfl
@[simp] theorem pulsesFall_ki (s : State) : (pulsesFall s).ki = s.ki := rfl
@[simp] theorem pulsesFall_fbuf (s : State) : (pulsesFall s).fbuf = s.fbuf := rfl
@[simp] theorem pulsesFall_q (s : State) : (pulsesFall s).q = s.q := rfl
@[simp] theorem pulsesFall_fsm (s : State) : (pulsesFall s).fsm = s.fsm := rfl
@[simp] theorem pulsesFall_byteIdx (s : State) : (pulsesFall s).byteIdx = s.byteIdx := rfl
@[simp] theorem pulsesFall_busy (s : State) : (pulsesFall s).busy = s.busy := rfl
@[simp] theorem pulsesFall_settleCnt (s : State) : (pulsesFall s).settleCnt = s.settleCnt := rfl
@[simp] theorem pulsesFall_nSample (s : State) : (pulsesFall s).nSample = s.nSample := rfl
@[simp] theorem pulsesFall_csumAcc (s : State) : (pulsesFall s).csumAcc = s.csumAcc := rfl
@[simp] theorem pulsesFall_pendStatus (s : State) : (pulsesFall s).pendStatus = s.pendStatus := rfl
@[simp] theorem pulsesFall_rsp (s : State) : (pulsesFall s).rsp = none := rfl
@[simp] theorem pulsesFall_diag (s : State) : (pulsesFall s).diag = none := rfl
@[simp] theorem pulsesFall_arrivals (s : State) : (pulsesFall s).arrivals = s.arrivals := rfl
@[simp] theorem pulsesFall_inputs (s : State) : (pulsesFall s).inputs = s.inputs := rfl
@[simp] theorem pulsesFall_draws (s : State) : (pulsesFall s).draws = s.draws := rfl

@[simp] theorem feed_latch (bytes : List Byte) (s : State) : (feed bytes s).latch = s.latch := rfl
@[simp] theorem feed_kv (bytes : List Byte) (s : State) : (feed bytes s).kv = s.kv := rfl
@[simp] theorem feed_ki (bytes : List Byte) (s : State) : (feed bytes s).ki = s.ki := rfl
@[simp] theorem feed_fbuf (bytes : List Byte) (s : State) : (feed bytes s).fbuf = s.fbuf := rfl
@[simp] theorem feed_q (bytes : List Byte) (s : State) : (feed bytes s).q = s.q ++ bytes := rfl
@[simp] theorem feed_fsm (bytes : List Byte) (s : State) : (feed bytes s).fsm = s.fsm := rfl
@[simp] theorem feed_byteIdx (bytes : List Byte) (s : State) : (feed bytes s).byteIdx = s.byteIdx := rfl
@[simp] theorem feed_busy (bytes : List Byte) (s : State) : (feed bytes s).busy = s.busy := rfl
@[simp] theorem feed_settleCnt (bytes : List Byte) (s : State) : (feed bytes s).settleCnt = s.settleCnt := rfl
@[simp] theorem feed_nSample (bytes : List Byte) (s : State) : (feed bytes s).nSample = s.nSample := rfl
@[simp] theorem feed_csumAcc (bytes : List Byte) (s : State) : (feed bytes s).csumAcc = s.csumAcc := rfl
@[simp] theorem feed_pendStatus (bytes : List Byte) (s : State) : (feed bytes s).pendStatus = s.pendStatus := rfl
@[simp] theorem feed_rsp (bytes : List Byte) (s : State) : (feed bytes s).rsp = s.rsp := rfl
@[simp] theorem feed_diag (bytes : List Byte) (s : State) : (feed bytes s).diag = s.diag := rfl
@[simp] theorem feed_arrivals (bytes : List Byte) (s : State) : (feed bytes s).arrivals = s.arrivals := rfl
@[simp] theorem feed_inputs (bytes : List Byte) (s : State) : (feed bytes s).inputs = s.inputs := rfl
@[simp] theorem feed_draws (bytes : List Byte) (s : State) : (feed bytes s).draws = s.draws := rfl

@[simp] theorem resetEdge_latch (s : State) : (resetEdge s).latch = Latch.zero := rfl
@[simp] theorem resetEdge_kv (s : State) : (resetEdge s).kv = Config.kvReset := rfl
@[simp] theorem resetEdge_ki (s : State) : (resetEdge s).ki = Config.kiReset := rfl
@[simp] theorem resetEdge_fbuf (s : State) : (resetEdge s).fbuf = [] := rfl
@[simp] theorem resetEdge_q (s : State) : (resetEdge s).q = s.q := rfl
@[simp] theorem resetEdge_fsm (s : State) : (resetEdge s).fsm = .idle := rfl
@[simp] theorem resetEdge_byteIdx (s : State) : (resetEdge s).byteIdx = 0 := rfl
@[simp] theorem resetEdge_busy (s : State) : (resetEdge s).busy = false := rfl
@[simp] theorem resetEdge_settleCnt (s : State) : (resetEdge s).settleCnt = Config.freeSettleCnt s.draws := rfl
@[simp] theorem resetEdge_nSample (s : State) : (resetEdge s).nSample = Config.freeNSample s.draws := rfl
@[simp] theorem resetEdge_csumAcc (s : State) : (resetEdge s).csumAcc = Config.freeCsumAcc s.draws := rfl
@[simp] theorem resetEdge_pendStatus (s : State) : (resetEdge s).pendStatus = Config.freePendStatus s.draws := rfl
@[simp] theorem resetEdge_rsp (s : State) : (resetEdge s).rsp = none := rfl
@[simp] theorem resetEdge_diag (s : State) : (resetEdge s).diag = none := rfl
@[simp] theorem resetEdge_arrivals (s : State) : (resetEdge s).arrivals = s.arrivals := rfl
@[simp] theorem resetEdge_inputs (s : State) : (resetEdge s).inputs = s.inputs := rfl
@[simp] theorem resetEdge_draws (s : State) : (resetEdge s).draws = s.draws + 1 := rfl

@[simp] theorem pollEnds_latch (st : Status) (s : State) : (pollEnds st s).latch = s.latch := rfl
@[simp] theorem pollEnds_kv (st : Status) (s : State) : (pollEnds st s).kv = s.kv := rfl
@[simp] theorem pollEnds_ki (st : Status) (s : State) : (pollEnds st s).ki = s.ki := rfl
@[simp] theorem pollEnds_fbuf (st : Status) (s : State) : (pollEnds st s).fbuf = s.fbuf := rfl
@[simp] theorem pollEnds_q (st : Status) (s : State) : (pollEnds st s).q = s.q := rfl
@[simp] theorem pollEnds_fsm (st : Status) (s : State) : (pollEnds st s).fsm = .idle := rfl
@[simp] theorem pollEnds_byteIdx (st : Status) (s : State) : (pollEnds st s).byteIdx = s.byteIdx := rfl
@[simp] theorem pollEnds_busy (st : Status) (s : State) : (pollEnds st s).busy = false := rfl
@[simp] theorem pollEnds_settleCnt (st : Status) (s : State) : (pollEnds st s).settleCnt = s.settleCnt := rfl
@[simp] theorem pollEnds_nSample (st : Status) (s : State) : (pollEnds st s).nSample = s.nSample := rfl
@[simp] theorem pollEnds_csumAcc (st : Status) (s : State) : (pollEnds st s).csumAcc = s.csumAcc := rfl
@[simp] theorem pollEnds_pendStatus (st : Status) (s : State) : (pollEnds st s).pendStatus = s.pendStatus := rfl
@[simp] theorem pollEnds_rsp (st : Status) (s : State) :
    (pollEnds st s).rsp = some { status := st, result := .empty } := rfl
@[simp] theorem pollEnds_diag (st : Status) (s : State) : (pollEnds st s).diag = st.diag := rfl
@[simp] theorem pollEnds_arrivals (st : Status) (s : State) : (pollEnds st s).arrivals = s.arrivals := rfl
@[simp] theorem pollEnds_inputs (st : Status) (s : State) : (pollEnds st s).inputs = s.inputs := rfl
@[simp] theorem pollEnds_draws (st : Status) (s : State) : (pollEnds st s).draws = s.draws := rfl

@[simp] theorem settleAndSample_latch (s : State) : (settleAndSample s).latch = s.latch := rfl
@[simp] theorem settleAndSample_kv (s : State) : (settleAndSample s).kv = s.kv := rfl
@[simp] theorem settleAndSample_ki (s : State) : (settleAndSample s).ki = s.ki := rfl
@[simp] theorem settleAndSample_fbuf (s : State) : (settleAndSample s).fbuf = s.fbuf := rfl
@[simp] theorem settleAndSample_q (s : State) : (settleAndSample s).q = s.q ++ s.arrivals := rfl
@[simp] theorem settleAndSample_fsm (s : State) : (settleAndSample s).fsm = s.fsm := rfl
@[simp] theorem settleAndSample_byteIdx (s : State) : (settleAndSample s).byteIdx = s.byteIdx := rfl
@[simp] theorem settleAndSample_busy (s : State) : (settleAndSample s).busy = s.busy := rfl
@[simp] theorem settleAndSample_settleCnt (s : State) : (settleAndSample s).settleCnt = 0 := rfl
@[simp] theorem settleAndSample_nSample (s : State) :
    (settleAndSample s).nSample = BitVec.ofNat 8 (min (s.q ++ s.arrivals).length 255) := rfl
@[simp] theorem settleAndSample_csumAcc (s : State) : (settleAndSample s).csumAcc = s.csumAcc := rfl
@[simp] theorem settleAndSample_pendStatus (s : State) : (settleAndSample s).pendStatus = s.pendStatus := rfl
@[simp] theorem settleAndSample_rsp (s : State) : (settleAndSample s).rsp = s.rsp := rfl
@[simp] theorem settleAndSample_diag (s : State) : (settleAndSample s).diag = s.diag := rfl
@[simp] theorem settleAndSample_arrivals (s : State) : (settleAndSample s).arrivals = [] := rfl
@[simp] theorem settleAndSample_inputs (s : State) : (settleAndSample s).inputs = s.inputs := rfl
@[simp] theorem settleAndSample_draws (s : State) : (settleAndSample s).draws = s.draws := rfl

@[simp] theorem drainAndEnd_latch (st : Status) (s : State) : (drainAndEnd st s).latch = s.latch := rfl
@[simp] theorem drainAndEnd_kv (st : Status) (s : State) : (drainAndEnd st s).kv = s.kv := rfl
@[simp] theorem drainAndEnd_ki (st : Status) (s : State) : (drainAndEnd st s).ki = s.ki := rfl
@[simp] theorem drainAndEnd_fbuf (st : Status) (s : State) : (drainAndEnd st s).fbuf = s.fbuf := rfl
@[simp] theorem drainAndEnd_q (st : Status) (s : State) : (drainAndEnd st s).q = [] := rfl
@[simp] theorem drainAndEnd_fsm (st : Status) (s : State) : (drainAndEnd st s).fsm = .idle := rfl
@[simp] theorem drainAndEnd_byteIdx (st : Status) (s : State) : (drainAndEnd st s).byteIdx = s.byteIdx := rfl
@[simp] theorem drainAndEnd_busy (st : Status) (s : State) : (drainAndEnd st s).busy = false := rfl
@[simp] theorem drainAndEnd_settleCnt (st : Status) (s : State) : (drainAndEnd st s).settleCnt = s.settleCnt := rfl
@[simp] theorem drainAndEnd_nSample (st : Status) (s : State) : (drainAndEnd st s).nSample = s.nSample := rfl
@[simp] theorem drainAndEnd_csumAcc (st : Status) (s : State) : (drainAndEnd st s).csumAcc = s.csumAcc := rfl
@[simp] theorem drainAndEnd_pendStatus (st : Status) (s : State) : (drainAndEnd st s).pendStatus = st := rfl
@[simp] theorem drainAndEnd_rsp (st : Status) (s : State) :
    (drainAndEnd st s).rsp = some { status := st, result := .empty } := rfl
@[simp] theorem drainAndEnd_diag (st : Status) (s : State) : (drainAndEnd st s).diag = st.diag := rfl
@[simp] theorem drainAndEnd_arrivals (st : Status) (s : State) : (drainAndEnd st s).arrivals = s.arrivals := rfl
@[simp] theorem drainAndEnd_inputs (st : Status) (s : State) : (drainAndEnd st s).inputs = s.inputs := rfl
@[simp] theorem drainAndEnd_draws (st : Status) (s : State) : (drainAndEnd st s).draws = s.draws := rfl

@[simp] theorem acquire_latch (s : State) : (acquire s).latch = s.latch := rfl
@[simp] theorem acquire_kv (s : State) : (acquire s).kv = s.kv := rfl
@[simp] theorem acquire_ki (s : State) : (acquire s).ki = s.ki := rfl
@[simp] theorem acquire_fbuf (s : State) : (acquire s).fbuf = s.fbuf.writeFrom 0 (s.q.take frameLen) := rfl
@[simp] theorem acquire_q (s : State) : (acquire s).q = s.q.drop frameLen := rfl
@[simp] theorem acquire_fsm (s : State) : (acquire s).fsm = s.fsm := rfl
@[simp] theorem acquire_byteIdx (s : State) : (acquire s).byteIdx = BitVec.ofNat 5 frameLen := rfl
@[simp] theorem acquire_busy (s : State) : (acquire s).busy = s.busy := rfl
@[simp] theorem acquire_settleCnt (s : State) : (acquire s).settleCnt = s.settleCnt := rfl
@[simp] theorem acquire_nSample (s : State) : (acquire s).nSample = s.nSample := rfl
@[simp] theorem acquire_csumAcc (s : State) : (acquire s).csumAcc = cs (s.fbuf.writeFrom 0 (s.q.take frameLen)) := rfl
@[simp] theorem acquire_pendStatus (s : State) : (acquire s).pendStatus = s.pendStatus := rfl
@[simp] theorem acquire_rsp (s : State) : (acquire s).rsp = s.rsp := rfl
@[simp] theorem acquire_diag (s : State) : (acquire s).diag = s.diag := rfl
@[simp] theorem acquire_arrivals (s : State) : (acquire s).arrivals = s.arrivals := rfl
@[simp] theorem acquire_inputs (s : State) : (acquire s).inputs = s.inputs := rfl
@[simp] theorem acquire_draws (s : State) : (acquire s).draws = s.draws := rfl

@[simp] theorem readByte_latch (b : Byte) (rest : List Byte) (s : State) : (readByte b rest s).latch = s.latch := rfl
@[simp] theorem readByte_kv (b : Byte) (rest : List Byte) (s : State) : (readByte b rest s).kv = s.kv := rfl
@[simp] theorem readByte_ki (b : Byte) (rest : List Byte) (s : State) : (readByte b rest s).ki = s.ki := rfl
@[simp] theorem readByte_fbuf (b : Byte) (rest : List Byte) (s : State) :
    (readByte b rest s).fbuf = s.fbuf.write s.byteIdx.toNat b := rfl
@[simp] theorem readByte_q (b : Byte) (rest : List Byte) (s : State) : (readByte b rest s).q = rest := rfl
@[simp] theorem readByte_fsm (b : Byte) (rest : List Byte) (s : State) :
    (readByte b rest s).fsm = if s.byteIdx.toNat = 23 then .vsync else .read := rfl
@[simp] theorem readByte_byteIdx (b : Byte) (rest : List Byte) (s : State) :
    (readByte b rest s).byteIdx = s.byteIdx + 1 := rfl
@[simp] theorem readByte_busy (b : Byte) (rest : List Byte) (s : State) : (readByte b rest s).busy = s.busy := rfl
@[simp] theorem readByte_settleCnt (b : Byte) (rest : List Byte) (s : State) :
    (readByte b rest s).settleCnt = s.settleCnt := rfl
@[simp] theorem readByte_nSample (b : Byte) (rest : List Byte) (s : State) :
    (readByte b rest s).nSample = s.nSample := rfl
@[simp] theorem readByte_csumAcc (b : Byte) (rest : List Byte) (s : State) :
    (readByte b rest s).csumAcc = csAdd s.csumAcc s.byteIdx.toNat b := rfl
@[simp] theorem readByte_pendStatus (b : Byte) (rest : List Byte) (s : State) :
    (readByte b rest s).pendStatus = s.pendStatus := rfl
@[simp] theorem readByte_rsp (b : Byte) (rest : List Byte) (s : State) : (readByte b rest s).rsp = s.rsp := rfl
@[simp] theorem readByte_diag (b : Byte) (rest : List Byte) (s : State) : (readByte b rest s).diag = s.diag := rfl
@[simp] theorem readByte_arrivals (b : Byte) (rest : List Byte) (s : State) :
    (readByte b rest s).arrivals = s.arrivals := rfl
@[simp] theorem readByte_inputs (b : Byte) (rest : List Byte) (s : State) :
    (readByte b rest s).inputs = s.inputs := rfl
@[simp] theorem readByte_draws (b : Byte) (rest : List Byte) (s : State) : (readByte b rest s).draws = s.draws := rfl

@[simp] theorem placeCommand_latch (cmd : Cmd) (s : State) : (placeCommand cmd s).latch = s.latch := rfl
@[simp] theorem placeCommand_kv (cmd : Cmd) (s : State) : (placeCommand cmd s).kv = s.kv := rfl
@[simp] theorem placeCommand_ki (cmd : Cmd) (s : State) : (placeCommand cmd s).ki = s.ki := rfl
@[simp] theorem placeCommand_fbuf (cmd : Cmd) (s : State) : (placeCommand cmd s).fbuf = s.fbuf := rfl
@[simp] theorem placeCommand_q (cmd : Cmd) (s : State) : (placeCommand cmd s).q = s.q := rfl
@[simp] theorem placeCommand_fsm (cmd : Cmd) (s : State) : (placeCommand cmd s).fsm = .idle := rfl
@[simp] theorem placeCommand_byteIdx (cmd : Cmd) (s : State) : (placeCommand cmd s).byteIdx = s.byteIdx := rfl
@[simp] theorem placeCommand_busy (cmd : Cmd) (s : State) : (placeCommand cmd s).busy = false := rfl
@[simp] theorem placeCommand_settleCnt (cmd : Cmd) (s : State) : (placeCommand cmd s).settleCnt = s.settleCnt := rfl
@[simp] theorem placeCommand_nSample (cmd : Cmd) (s : State) : (placeCommand cmd s).nSample = s.nSample := rfl
@[simp] theorem placeCommand_csumAcc (cmd : Cmd) (s : State) : (placeCommand cmd s).csumAcc = s.csumAcc := rfl
@[simp] theorem placeCommand_pendStatus (cmd : Cmd) (s : State) :
    (placeCommand cmd s).pendStatus = s.pendStatus := rfl
@[simp] theorem placeCommand_rsp (cmd : Cmd) (s : State) : (placeCommand cmd s).rsp = s.rsp := rfl
@[simp] theorem placeCommand_diag (cmd : Cmd) (s : State) : (placeCommand cmd s).diag = s.diag := rfl
@[simp] theorem placeCommand_arrivals (cmd : Cmd) (s : State) : (placeCommand cmd s).arrivals = s.arrivals := rfl
@[simp] theorem placeCommand_inputs (cmd : Cmd) (s : State) :
    (placeCommand cmd s).inputs = .command cmd [] :: s.inputs := rfl
@[simp] theorem placeCommand_draws (cmd : Cmd) (s : State) : (placeCommand cmd s).draws = s.draws := rfl

end Sys2Proof.Machine
end

