-- ==== Sys2Proof/Laws/Cycle.lean ====
section
/-! SUPPORT. What one clock cycle is in each state of the machine, and how cycles compose. -/

namespace Sys2Proof.Machine

/-- The state a clock edge sees: the bytes of the cycle in `Q`, last cycle's pulses fallen. -/
def atEdge (c : CycleIn) (s : State) : State := pulsesFall (feed c.arrivals s)

@[simp] theorem atEdge_q (c : CycleIn) (s : State) : (atEdge c s).q = s.q ++ c.arrivals := rfl
@[simp] theorem atEdge_fsm (c : CycleIn) (s : State) : (atEdge c s).fsm = s.fsm := rfl
@[simp] theorem atEdge_latch (c : CycleIn) (s : State) : (atEdge c s).latch = s.latch := rfl
@[simp] theorem atEdge_kv (c : CycleIn) (s : State) : (atEdge c s).kv = s.kv := rfl
@[simp] theorem atEdge_ki (c : CycleIn) (s : State) : (atEdge c s).ki = s.ki := rfl
@[simp] theorem atEdge_fbuf (c : CycleIn) (s : State) : (atEdge c s).fbuf = s.fbuf := rfl
@[simp] theorem atEdge_byteIdx (c : CycleIn) (s : State) : (atEdge c s).byteIdx = s.byteIdx := rfl
@[simp] theorem atEdge_busy (c : CycleIn) (s : State) : (atEdge c s).busy = s.busy := rfl
@[simp] theorem atEdge_settleCnt (c : CycleIn) (s : State) : (atEdge c s).settleCnt = s.settleCnt := rfl
@[simp] theorem atEdge_nSample (c : CycleIn) (s : State) : (atEdge c s).nSample = s.nSample := rfl
@[simp] theorem atEdge_csumAcc (c : CycleIn) (s : State) : (atEdge c s).csumAcc = s.csumAcc := rfl
@[simp] theorem atEdge_pendStatus (c : CycleIn) (s : State) : (atEdge c s).pendStatus = s.pendStatus := rfl
@[simp] theorem atEdge_rsp (c : CycleIn) (s : State) : (atEdge c s).rsp = none := rfl
@[simp] theorem atEdge_diag (c : CycleIn) (s : State) : (atEdge c s).diag = none := rfl
@[simp] theorem atEdge_inputs (c : CycleIn) (s : State) : (atEdge c s).inputs = s.inputs := rfl

/-- A cycle with `rst`. -/
theorem tick_reset (c : CycleIn) (s : State) (h : c.rst = true) : tick c s = .next (resetEdge (feed c.arrivals s)) := by
  unfold tick
  exact if_pos h

/-- A cycle without `rst`. -/
theorem tick_run (c : CycleIn) (s : State) (h : c.rst = false) : tick c s = tickFsm c (atEdge c s) := by
  unfold tick
  exact if_neg (by simp [h])

theorem tick_idle (c : CycleIn) (s : State) (h : c.rst = false) (hf : s.fsm = .idle) :
    tick c s = tickIdle c (atEdge c s) := by
  rw [tick_run c s h, tickFsm, atEdge_fsm, hf]

theorem tick_settle (c : CycleIn) (s : State) (h : c.rst = false) (hf : s.fsm = .settle) :
    tick c s = .next (tickSettle (atEdge c s)) := by
  rw [tick_run c s h, tickFsm, atEdge_fsm, hf]

theorem tick_sample (c : CycleIn) (s : State) (h : c.rst = false) (hf : s.fsm = .sample) :
    tick c s = .next (tickSample (atEdge c s)) := by
  rw [tick_run c s h, tickFsm, atEdge_fsm, hf]

theorem tick_read (c : CycleIn) (s : State) (h : c.rst = false) (hf : s.fsm = .read) :
    tick c s = tickRead (atEdge c s) := by
  rw [tick_run c s h, tickFsm, atEdge_fsm, hf]

theorem tick_vsync (c : CycleIn) (s : State) (h : c.rst = false) (hf : s.fsm = .vsync) :
    tick c s = .next (tickVsync (atEdge c s)) := by
  rw [tick_run c s h, tickFsm, atEdge_fsm, hf]

theorem tick_vsum (c : CycleIn) (s : State) (h : c.rst = false) (hf : s.fsm = .vsum) :
    tick c s = .next (tickVsum (atEdge c s)) := by
  rw [tick_run c s h, tickFsm, atEdge_fsm, hf]

theorem tick_commit (c : CycleIn) (s : State) (h : c.rst = false) (hf : s.fsm = .commit) :
    tick c s = .next (tickCommit (atEdge c s)) := by
  rw [tick_run c s h, tickFsm, atEdge_fsm, hf]

theorem tick_drain (c : CycleIn) (s : State) (h : c.rst = false) (hf : s.fsm = .drain) :
    tick c s = .next (tickDrain (atEdge c s)) := by
  rw [tick_run c s h, tickFsm, atEdge_fsm, hf]

@[simp] theorem runCycles_nil (s : State) : runCycles [] s = .next s := rfl

/-- A first cycle that answers a next state is followed by the rest of the cycles. -/
theorem runCycles_cons (c : CycleIn) (rest : List CycleIn) (s t : State) (h : tick c s = .next t) :
    runCycles (c :: rest) s = runCycles rest t := by
  rw [runCycles, h]

/-- Cycles that answer a next state are followed by further cycles. -/
theorem runCycles_append (xs ys : List CycleIn) (s t : State) (h : runCycles xs s = .next t) :
    runCycles (xs ++ ys) s = runCycles ys t := by
  induction xs generalizing s with
  | nil => cases h; rfl
  | cons c rest ih =>
    rw [runCycles] at h
    rw [List.cons_append, runCycles]
    cases hc : tick c s with
    | next u => rw [hc] at h; exact ih u h
    | fault r => rw [hc] at h; cases h
    | refused r => rw [hc] at h; cases h

/-- One step: which operation it is, by the first move of host and environment. -/
theorem step_cases (s : State) :
    (s.inputs = [] ∧ step s = tick (CycleIn.bytes []) s) ∨
    (∃ rest, s.inputs = .reset :: rest ∧ step s = .next (resetEdge { s with inputs := rest })) ∨
    (∃ bytes rest, s.inputs = .feed bytes :: rest ∧ step s = .next (feed bytes { s with inputs := rest })) ∨
    (∃ cmd arrivals rest, s.inputs = .command cmd arrivals :: rest ∧ s.busy = false ∧
      step s = exec (decodeCmd cmd) { s with inputs := rest, arrivals := arrivals }) ∨
    (∃ cmd arrivals rest, s.inputs = .command cmd arrivals :: rest ∧ s.busy = true ∧
      step s = tick (CycleIn.bytes []) s) ∨
    (∃ c rest, s.inputs = .clock c :: rest ∧ step s = tick c { s with inputs := rest }) := by
  unfold step advance
  cases h : s.inputs with
  | nil => exact .inl ⟨rfl, rfl⟩
  | cons i rest =>
    cases i with
    | reset => exact .inr (.inl ⟨rest, rfl, rfl⟩)
    | feed bytes => exact .inr (.inr (.inl ⟨bytes, rest, rfl, rfl⟩))
    | clock c => exact .inr (.inr (.inr (.inr (.inr ⟨c, rest, rfl, rfl⟩))))
    | command cmd arrivals =>
      cases hb : s.busy with
      | false =>
        refine .inr (.inr (.inr (.inl ⟨cmd, arrivals, rest, rfl, rfl, ?_⟩)))
        simp only [takeInput, issue, cmdReady, hb]
        rfl
      | true =>
        refine .inr (.inr (.inr (.inr (.inl ⟨cmd, arrivals, rest, rfl, rfl, ?_⟩))))
        simp only [takeInput, issue, cmdReady, hb]
        rfl

end Sys2Proof.Machine
end

