-- ==== Sys2Proof/Laws/Encoding.lean ====
section
/-! SUPPORT. The laws of the command word and of the decoder. -/

namespace Sys2Proof

/-- A command read back from its 9-bit word and the number beside it. -/
theorem Cmd.ofWord_word (c : Cmd) : Cmd.ofWord c.word c.num = c := by
  obtain ⟨op, idx, num⟩ := c
  have h1 : (idx ++ op : BitVec 9).extractLsb' 0 4 = op := by
    ext j hj
    simp only [BitVec.getElem_extractLsb', BitVec.getLsbD_append]
    simp [hj]
  have h2 : (idx ++ op : BitVec 9).extractLsb' 4 5 = idx := by
    ext j hj
    simp only [BitVec.getElem_extractLsb', BitVec.getLsbD_append]
    simp [hj]
  simp only [Cmd.ofWord, Cmd.word, h1, h2]

/-- Only opcode 0 is `POLL`. -/
theorem decodeCmd_ne_poll (c : Cmd) (h : c.op ≠ 0) : decodeCmd c ≠ .poll := by
  obtain ⟨⟨n, hn⟩, idx, num⟩ := c
  interval_cases n <;> simp_all [decodeCmd]

end Sys2Proof
end

