-- ==== Sys2Proof/Laws/Memory.lean ====
section
/-! SUPPORT. The laws of the frame buffer: what a read after a write gives, and that writes keep the canonical form. -/

namespace Sys2Proof.Machine

@[simp] theorem Memory.read_nil (i : Nat) : Memory.read [] i = 0 := rfl

@[simp] theorem Memory.wf_nil : Memory.wf [] = true := rfl

/-- A canonical buffer from `lo` on lists nothing below `lo`. -/
theorem Memory.read_below (m : Memory) (lo i : Nat) (h : Memory.wfFrom lo m = true) (hi : i < lo) : m.read i = 0 := by
  cases m with
  | nil => rfl
  | cons c rest =>
    obtain ⟨a, b⟩ := c
    simp only [Memory.wfFrom, Bool.and_eq_true, decide_eq_true_eq] at h
    simp only [Memory.read]
    rw [if_pos (by omega)]
    rfl

/-- Canonical from `lo` on is canonical from any lower bound on. -/
theorem Memory.wfFrom_mono (m : Memory) (lo lo' : Nat) (h : Memory.wfFrom lo m = true) (hl : lo' ≤ lo) :
    Memory.wfFrom lo' m = true := by
  cases m with
  | nil => rfl
  | cons c rest =>
    obtain ⟨a, b⟩ := c
    simp only [Memory.wfFrom, Bool.and_eq_true, decide_eq_true_eq] at h ⊢
    exact ⟨⟨⟨by omega, h.1.1.2⟩, h.1.2⟩, h.2⟩

/-- Putting a cell in front keeps the canonical form. -/
theorem Memory.wfFrom_cons (m : Memory) (lo i : Nat) (v : Byte) (hm : Memory.wfFrom (i + 1) m = true) (hlo : lo ≤ i)
    (hi : i < frameLen) : Memory.wfFrom lo (Memory.cons i v m) = true := by
  unfold Memory.cons
  split
  · exact Memory.wfFrom_mono m _ _ hm (by omega)
  · next hv => simp [Memory.wfFrom, hlo, hi, hv, hm]

/-- A write to an offset of the buffer keeps the canonical form. -/
theorem Memory.wfFrom_write (m : Memory) (lo i : Nat) (v : Byte) (h : Memory.wfFrom lo m = true) (hlo : lo ≤ i)
    (hi : i < frameLen) : Memory.wfFrom lo (m.write i v) = true := by
  induction m generalizing lo with
  | nil => exact Memory.wfFrom_cons [] lo i v rfl hlo hi
  | cons c rest ih =>
    obtain ⟨a, b⟩ := c
    simp only [Memory.wfFrom, Bool.and_eq_true, decide_eq_true_eq] at h
    simp only [Memory.write]
    split
    · next hia =>
      refine Memory.wfFrom_cons _ lo i v ?_ hlo hi
      simp only [Memory.wfFrom, Bool.and_eq_true, decide_eq_true_eq]
      exact ⟨⟨⟨by omega, h.1.1.2⟩, h.1.2⟩, h.2⟩
    · split
      · next hia => exact Memory.wfFrom_cons rest lo i v (hia ▸ h.2) hlo hi
      · simp only [Memory.wfFrom, Bool.and_eq_true, decide_eq_true_eq]
        exact ⟨h.1, ih (a + 1) h.2 (by omega)⟩

/-- `fbuf[i] <- v` keeps the canonical form. -/
theorem Memory.wf_write (m : Memory) (i : Nat) (v : Byte) (h : m.wf = true) (hi : i < frameLen) :
    (m.write i v).wf = true :=
  Memory.wfFrom_write m 0 i v h (Nat.zero_le i) hi

/-- A sequence of writes inside the buffer keeps the canonical form. -/
theorem Memory.wf_writeFrom (bs : List Byte) (m : Memory) (i : Nat) (h : m.wf = true) (hi : i + bs.length ≤ frameLen) :
    (m.writeFrom i bs).wf = true := by
  induction bs generalizing m i with
  | nil => exact h
  | cons b rest ih =>
    simp only [List.length_cons] at hi
    exact ih _ _ (Memory.wf_write m i b h (by omega)) (by omega)

/-- A read of a cell put in front of cells above it. -/
theorem Memory.read_cons (m : Memory) (i j : Nat) (v : Byte) (hm : Memory.wfFrom (i + 1) m = true) :
    (Memory.cons i v m).read j = if j = i then v else m.read j := by
  unfold Memory.cons
  split
  · next hv =>
    split
    · next hj => rw [Memory.read_below m (i + 1) j hm (by omega), hv]; rfl
    · rfl
  · simp only [Memory.read]
    by_cases hlt : j < i
    · rw [if_pos hlt, if_neg (by omega), Memory.read_below m (i + 1) j hm (by omega)]; rfl
    · rw [if_neg hlt]

/-- A read after a write: the byte written at its own offset, the old byte everywhere else. -/
theorem Memory.read_writeAux (m : Memory) (lo i j : Nat) (v : Byte) (h : Memory.wfFrom lo m = true) :
    (m.write i v).read j = if j = i then v else m.read j := by
  induction m generalizing lo with
  | nil => exact Memory.read_cons [] i j v rfl
  | cons c rest ih =>
    obtain ⟨a, b⟩ := c
    simp only [Memory.wfFrom, Bool.and_eq_true, decide_eq_true_eq] at h
    simp only [Memory.write]
    split
    · next hia =>
      refine Memory.read_cons _ i j v ?_
      simp only [Memory.wfFrom, Bool.and_eq_true, decide_eq_true_eq]
      exact ⟨⟨⟨by omega, h.1.1.2⟩, h.1.2⟩, h.2⟩
    · split
      · next hia =>
        subst hia
        rw [Memory.read_cons rest i j v h.2]
        simp only [Memory.read]
        by_cases hji : j = i
        · simp [hji]
        · by_cases hlt : j < i
          · simp only [if_neg hji, if_pos hlt, Memory.read_below rest (i + 1) j h.2 (by omega)]; rfl
          · simp [hji, hlt]
      · next hia hne =>
        simp only [Memory.read]
        by_cases hlt : j < a
        · rw [if_pos hlt, if_neg (by omega), if_pos hlt]
        · by_cases hja : j = a
          · rw [if_neg hlt, if_pos hja, if_neg (by omega), if_neg hlt, if_pos hja]
          · rw [if_neg hlt, if_neg hja, if_neg hlt, if_neg hja, ih (a + 1) h.2]

/-- A read after a write: the byte written at its own offset, the old byte everywhere else. -/
theorem Memory.read_write (m : Memory) (i j : Nat) (v : Byte) (h : m.wf = true) :
    (m.write i v).read j = if j = i then v else m.read j :=
  Memory.read_writeAux m 0 i j v h

/-- A read after a sequence of writes: the sequence's byte inside it, the old byte outside. -/
theorem Memory.read_writeFrom (bs : List Byte) (m : Memory) (i j : Nat) (h : m.wf = true)
    (hi : i + bs.length ≤ frameLen) :
    (m.writeFrom i bs).read j = if i ≤ j ∧ j < i + bs.length then bs.getD (j - i) 0 else m.read j := by
  induction bs generalizing m i with
  | nil => simp [Memory.writeFrom, show ¬(i ≤ j ∧ j < i) by omega]
  | cons b rest ih =>
    simp only [List.length_cons] at hi ⊢
    rw [Memory.writeFrom, ih _ _ (Memory.wf_write m i b h (by omega)) (by omega), Memory.read_write m i j b h]
    by_cases hji : j = i
    · subst hji
      rw [if_neg (by omega), if_pos rfl, if_pos (by omega)]
      simp
    · rw [if_neg hji]
      by_cases hin : i + 1 ≤ j ∧ j < i + 1 + rest.length
      · rw [if_pos hin, if_pos (by omega), show j - i = (j - (i + 1)) + 1 by omega]
        simp
      · rw [if_neg hin, if_neg (by omega)]

/-- Writing a sequence is writing its first part and then the rest. -/
theorem Memory.writeFrom_append (as bs : List Byte) (m : Memory) (i : Nat) :
    m.writeFrom i (as ++ bs) = (m.writeFrom i as).writeFrom (i + as.length) bs := by
  induction as generalizing m i with
  | nil => simp [Memory.writeFrom]
  | cons a rest ih =>
    simp only [List.cons_append, Memory.writeFrom, ih, List.length_cons]
    congr 1
    omega

end Sys2Proof.Machine
end

