-- ==== Sys2Proof/Laws/Frame.lean ====
section
/-! SUPPORT. The laws of frames in the frame buffer: byte sums, the incremental checksum, the fields and their bytes, and
the tests of the validator on a buffer that holds a sequence of bytes. -/

namespace Sys2Proof.Machine

/-- A byte sum as a sum over offsets. -/
theorem byteSum_eq_sum (F : Memory) (o n : Nat) :
    byteSum F o n = ((List.range n).map fun k => (F.read (k + o)).toNat).sum := by
  induction n with
  | zero => rfl
  | succ n ih =>
    rw [byteSum, List.range_succ, ih]
    simp [Nat.add_comm]

/-- The byte sum of a buffer that holds these bytes. -/
theorem byteSum_of_reads (F : Memory) (bs : List Byte) (h : ∀ i, i < 24 → F.read i = frameAt bs i) :
    byteSum F 2 21 = frameSum bs := by
  rw [byteSum_eq_sum, frameSum]
  congr 1
  refine List.map_congr_left fun k hk => ?_
  rw [h _ (by simp at hk; omega)]

/-- The sentinel test on a buffer that holds these bytes. -/
theorem syncOk_of_reads (F : Memory) (bs : List Byte) (h : ∀ i, i < 24 → F.read i = frameAt bs i) :
    syncOk F = decide (frameAt bs 1 = 0x5A) := by
  simp only [syncOk, h 1 (by omega), sentinel]

/-- The checksum test on a buffer that holds these bytes. -/
theorem sumOk_of_reads (F : Memory) (bs : List Byte) (h : ∀ i, i < 24 → F.read i = frameAt bs i) :
    sumOk F = decide (frameSum bs % 256 = (frameAt bs 23).toNat) := by
  rw [sumOk, decide_eq_decide, cs, csPos, byteSum_of_reads F bs h, h 23 (by omega), ← BitVec.toNat_inj,
    BitVec.toNat_ofNat]

/-- A buffer read after 24 bytes are written to it from offset 0 on. -/
theorem Memory.read_frame (m : Memory) (bs : List Byte) (hm : m.wf = true) (h : bs.length = 24) (i : Nat)
    (hi : i < 24) : (m.writeFrom 0 bs).read i = frameAt bs i := by
  rw [Memory.read_writeFrom _ _ _ _ hm (by rw [h]), if_pos (by omega)]
  rfl

/-- The incremental checksum below an offset does not depend on the byte written there. -/
theorem csUpTo_write (F : Memory) (hw : F.wf = true) (n : Nat) (b : Byte) (k : Nat) (hk : k ≤ n) :
    csUpTo (F.write n b) k = csUpTo F k := by
  induction k with
  | zero => rfl
  | succ k ih =>
    simp only [csUpTo]
    rw [ih (by omega), Memory.read_write _ _ _ _ hw, if_neg (by omega)]

/-- Popping one more byte takes the incremental checksum one offset further. -/
theorem csUpTo_succ_write (F : Memory) (hw : F.wf = true) (n : Nat) (b : Byte) :
    csUpTo (F.write n b) (n + 1) = csAdd (csUpTo F n) n b := by
  rw [csUpTo, csUpTo_write F hw n b n (Nat.le_refl n), Memory.read_write _ _ _ _ hw, if_pos rfl]

/-- The three bytes of a value assemble to it. -/
theorem be24_of_bytes (v : Reg24) : be24 (v.extractLsb' 16 8) (v.extractLsb' 8 8) (v.extractLsb' 0 8) = v := by
  unfold be24
  apply BitVec.eq_of_getLsbD_eq
  intro j hj
  simp only [BitVec.getLsbD_append, BitVec.getLsbD_extractLsb']
  by_cases h8 : j < 8
  · simp [h8]
  · by_cases h16 : j < 16
    · simp [h8, show j - 8 < 8 by omega, show 8 + (j - 8) = j by omega]
    · simp [h8, show ¬ j - 8 < 8 by omega, show j - 8 - 8 < 8 by omega, show 16 + (j - 8 - 8) = j by omega]

/-- The two bytes of a value assemble to it. -/
theorem be16_of_bytes (v : Reg16) : be16 (v.extractLsb' 8 8) (v.extractLsb' 0 8) = v := by
  unfold be16
  apply BitVec.eq_of_getLsbD_eq
  intro j hj
  simp only [BitVec.getLsbD_append, BitVec.getLsbD_extractLsb']
  by_cases h8 : j < 8
  · simp [h8]
  · simp [h8, show j - 8 < 8 by omega, show 8 + (j - 8) = j by omega]

end Sys2Proof.Machine
end

