-- ==== Sys2Proof/Laws/Exec.lean ====
section
/-! SUPPORT. What a command can do, said once: every command but `POLL` touches only the coefficients and the response,
and `POLL` by its outcomes. -/

namespace Sys2Proof.Machine

/-- What any command but `POLL` can do. -/
theorem exec_of_ne_poll (i : Instr) (hi : i ≠ .poll) (s : State) :
    ∃ kv ki p, exec i s = .next { s with
        kv := kv, ki := ki, rsp := some p, diag := p.status.diag, busy := false } ∧
      (kv ≠ s.kv → i = .setkv kv) ∧ (ki ≠ s.ki → i = .setki ki) := by
  have key : ∀ r : Res, ∃ kv ki p, Host.Outcome.next (φ := Fault) (ρ := Refusal) (respondRes r s) = .next { s with
        kv := kv, ki := ki, rsp := some p, diag := p.status.diag, busy := false } ∧
      (kv ≠ s.kv → i = .setkv kv) ∧ (ki ≠ s.ki → i = .setki ki) := by
    intro r
    cases r <;> exact ⟨s.kv, s.ki, _, rfl, by simp, by simp⟩
  cases i with
  | poll => exact absurd rfl hi
  | getfrm idx =>
    simp only [exec, execGetfrm]
    split_ifs <;> exact ⟨s.kv, s.ki, _, rfl, by simp, by simp⟩
  | setkv x => exact ⟨x, s.ki, _, rfl, by simp, by simp⟩
  | setki x => exact ⟨s.kv, x, _, rfl, by simp, by simp⟩
  | getveff => exact key _
  | getvdiv => exact key _
  | getieff => exact key _
  | getvsh => exact key _
  | getpact => exact key _
  | getpapp => exact key _
  | getpf => exact key _
  | getkwh => exact key _
  | getpfr => exact ⟨s.kv, s.ki, _, rfl, by simp, by simp⟩
  | getpfa => exact ⟨s.kv, s.ki, _, rfl, by simp, by simp⟩
  | getok => exact ⟨s.kv, s.ki, _, rfl, by simp, by simp⟩
  | ill => exact ⟨s.kv, s.ki, _, rfl, by simp, by simp⟩

/-- The frame buffer after the acquisition of a POLL. -/
theorem acquire_read (s : State) (hw : s.fbuf.wf = true) (hq : 24 ≤ s.q.length) (i : Nat) :
    (acquire s).fbuf.read i = if i < 24 then frameAt s.q i else s.fbuf.read i := by
  have hl : (s.q.take 24).length = 24 := by
    simp only [List.length_take]
    omega
  rw [acquire_fbuf, Memory.read_writeFrom _ _ _ _ hw (by simp)]
  simp only [Nat.zero_le, true_and, hl, Nat.zero_add, Nat.sub_zero]
  by_cases hi : i < 24
  · simp only [if_pos hi, frameAt, List.getD_eq_getElem?_getD, List.getElem?_take]
  · simp only [if_neg hi]

/-- `POLL` with nothing in the transport. -/
theorem exec_poll_empty (s : State) (h : s.q = []) :
    exec .poll s = .next (respond .nodata .empty { s with arrivals := [] }) := by
  show execPoll s = _
  unfold execPoll
  exact if_pos h

/-- `POLL` with a byte there and fewer than 24 at the sample point. -/
theorem exec_poll_short (s : State) (h : s.q ≠ []) (hl : (sampled s).length < 24) :
    exec .poll s = .next (drainAndEnd .partialFrame (settleAndSample s)) := by
  show execPoll s = _
  rw [execPoll, if_neg h, takeFrame, if_pos (show (settleAndSample s).q.length < frameLen from hl)]

/-- `POLL` with 24 bytes at the sample point. -/
theorem exec_poll_read (s : State) (h : s.q ≠ []) (hl : 24 ≤ (sampled s).length) :
    exec .poll s = .next (validateAndCommit (acquire (settleAndSample s))) := by
  show execPoll s = _
  have hn : ¬ (settleAndSample s).q.length < frameLen := Nat.not_lt.mpr hl
  rw [execPoll, if_neg h, takeFrame, if_neg hn]

/-- `POLL` with 24 bytes at the sample point, its tests as tests on those bytes. -/
theorem exec_poll_frame (s : State) (hw : s.fbuf.wf = true) (h : s.q ≠ []) (hl : 24 ≤ (sampled s).length) :
    exec .poll s = .next (
      if frameAt (sampled s) 1 = 0x5A then
        if frameSum (sampled s) % 256 = (frameAt (sampled s) 23).toNat then
          pollEnds .ok { acquire (settleAndSample s) with
            latch := commit (acquire (settleAndSample s)).fbuf s.latch }
        else pollEnds .chksum (acquire (settleAndSample s))
      else drainAndEnd .sync (acquire (settleAndSample s))) := by
  have hr : ∀ i, i < 24 → (acquire (settleAndSample s)).fbuf.read i = frameAt (sampled s) i := by
    intro i hi
    rw [acquire_read (settleAndSample s) hw hl, if_pos hi]
    rfl
  rw [exec_poll_read s h hl, validateAndCommit, syncOk_of_reads _ _ hr, sumOk_of_reads _ _ hr]
  simp only [decide_eq_true_eq]
  rfl

/-- What `POLL` can do to each part of the state. -/
theorem exec_poll_cases (s : State) :
    ∃ t p, exec .poll s = .next t ∧ t.kv = s.kv ∧ t.ki = s.ki ∧ t.rsp = some p ∧ t.diag = p.status.diag ∧
      t.busy = false ∧ (t.fsm = .idle ∨ t.fsm = s.fsm) ∧ t.inputs = s.inputs ∧ t.draws = s.draws ∧
      (t.fbuf = s.fbuf ∨ ∃ bs : List Byte, bs.length ≤ 24 ∧ t.fbuf = s.fbuf.writeFrom 0 bs) ∧
      (t.latch = s.latch ∨
        (t.latch = commit t.fbuf s.latch ∧ syncOk t.fbuf = true ∧ sumOk t.fbuf = true ∧
          p = { status := .ok, result := .empty })) := by
  show ∃ t p, execPoll s = .next t ∧ _
  unfold execPoll takeFrame validateAndCommit
  split_ifs with h1 h2 h3 h4
  · exact ⟨_, _, rfl, rfl, rfl, rfl, rfl, rfl, .inr rfl, rfl, rfl, .inl rfl, .inl rfl⟩
  · exact ⟨_, _, rfl, rfl, rfl, rfl, rfl, rfl, .inl rfl, rfl, rfl, .inl rfl, .inl rfl⟩
  · exact ⟨_, _, rfl, rfl, rfl, rfl, rfl, rfl, .inl rfl, rfl, rfl, .inr ⟨_, by simp, rfl⟩, .inr ⟨rfl, h3, h4, rfl⟩⟩
  · exact ⟨_, _, rfl, rfl, rfl, rfl, rfl, rfl, .inl rfl, rfl, rfl, .inr ⟨_, by simp, rfl⟩, .inl rfl⟩
  · exact ⟨_, _, rfl, rfl, rfl, rfl, rfl, rfl, .inl rfl, rfl, rfl, .inr ⟨_, by simp, rfl⟩, .inl rfl⟩

end Sys2Proof.Machine
end

