-- ==== Sys2Proof/Laws/PerInstr.lean ====
section
/-! SUPPORT. Per instruction: where its opcode and its operand stand in its command word (30_encoding.md R80, R81). -/

namespace Sys2Proof.Laws.OpcodeField

/-- The opcode stands in bits 3:0 of the instruction's word and the frame offset in bits 8:4. -/
def Statement (i : Instr) : Prop :=
  (encode i).word.toNat % 16 = (opcode i).toNat ∧ (encode i).word.toNat / 16 = (operandIdx i).toNat

/-- Any word is the offset times 16 plus the opcode. -/
theorem word_fields (c : Cmd) : c.word.toNat % 16 = c.op.toNat ∧ c.word.toNat / 16 = c.idx.toNat := by
  have hop := c.op.isLt
  have h : c.word.toNat = 2 ^ 4 * c.idx.toNat + c.op.toNat := by
    rw [Cmd.word, BitVec.toNat_append, Nat.shiftLeft_eq, Nat.mul_comm, ← Nat.two_pow_add_eq_or_of_lt hop]
  omega

theorem poll : Statement .poll := word_fields _
theorem setkv (num : Num) : Statement (.setkv num) := word_fields _
theorem setki (num : Num) : Statement (.setki num) := word_fields _
theorem getveff : Statement .getveff := word_fields _
theorem getvdiv : Statement .getvdiv := word_fields _
theorem getieff : Statement .getieff := word_fields _
theorem getvsh : Statement .getvsh := word_fields _
theorem getpact : Statement .getpact := word_fields _
theorem getpapp : Statement .getpapp := word_fields _
theorem getpf : Statement .getpf := word_fields _
theorem getpfr : Statement .getpfr := word_fields _
theorem getpfa : Statement .getpfa := word_fields _
theorem getkwh : Statement .getkwh := word_fields _
theorem getok : Statement .getok := word_fields _
theorem getfrm (idx : Nat) : Statement (.getfrm idx) := word_fields _
theorem ill : Statement .ill := word_fields _

end Sys2Proof.Laws.OpcodeField
end

