-- ==== Sys2Proof/Laws/Runs.lean ====
section
/-! SUPPORT. Runs of clock cycles: the settle wait, the 24 reads, and the drain, each by one induction, and what makes an
environment fair to a drain. -/

namespace Sys2Proof.Machine

/-- `rx_avail` is 0 exactly where the queue is empty. -/
theorem rxAvail_eq_zero (s : State) : rxAvail s = 0 ↔ s.q = [] := by
  have h : (rxAvail s).toNat = min s.q.length 255 := by simp [rxAvail]
  rw [← BitVec.toNat_inj, h]
  simp

/-- READ with a byte there and an offset of the frame. -/
theorem tickRead_cons (s : State) (b : Byte) (rest : List Byte) (hq : s.q = b :: rest) (hi : s.byteIdx.toNat < 24) :
    tickRead s = .next (readByte b rest s) := by
  rw [tickRead, hq]
  exact if_pos hi

/-- The settle wait with `n` left to count: `n + 1` cycles, whose bytes join the queue. -/
theorem settle_run (n : Nat) (u : State) (ls : List (List Byte)) (hf : u.fsm = .settle) (hc : u.settleCnt = n)
    (hr : u.rsp = none) (hd : u.diag = none) (hl : ls.length = n + 1) :
    runCycles (ls.map CycleIn.bytes) u =
      .next { u with q := u.q ++ ls.flatten, settleCnt := 0, fsm := .sample } := by
  induction n generalizing u ls with
  | zero =>
    obtain ⟨b, rfl⟩ := List.length_eq_one_iff.mp hl
    have : tick (CycleIn.bytes b) u = .next { u with q := u.q ++ b, settleCnt := 0, fsm := .sample } := by
      rw [tick_settle _ _ rfl hf, tickSettle, atEdge_settleCnt, if_pos hc]
      obtain ⟨⟩ := u
      simp_all [atEdge, feed, pulsesFall, CycleIn.bytes]
    simp only [List.map_cons, List.map_nil]
    rw [runCycles_cons _ _ _ _ this]
    simp
  | succ n ih =>
    obtain ⟨b, ls, rfl⟩ := List.exists_cons_of_length_pos (l := ls) (by omega)
    have : tick (CycleIn.bytes b) u = .next { u with q := u.q ++ b, settleCnt := n } := by
      rw [tick_settle _ _ rfl hf, tickSettle, atEdge_settleCnt, if_neg (by omega), hc]
      obtain ⟨⟩ := u
      simp_all [atEdge, feed, pulsesFall, CycleIn.bytes]
    simp only [List.map_cons]
    rw [runCycles_cons _ _ _ _ this]
    refine (ih { u with q := u.q ++ b, settleCnt := n } ls hf rfl hr hd (by simpa using hl)).trans ?_
    simp

/-- The last `n + 1` cycles of READ. -/
theorem read_run (n : Nat) (u : State) (ls : List (List Byte)) (hf : u.fsm = .read)
    (hi : u.byteIdx.toNat + (n + 1) = 24) (hr : u.rsp = none) (hd : u.diag = none) (hw : u.fbuf.wf = true)
    (hc : u.csumAcc = csUpTo u.fbuf u.byteIdx.toNat) (hq : n + 1 ≤ u.q.length) (hl : ls.length = n + 1) :
    runCycles (ls.map CycleIn.bytes) u = .next { u with
      q := u.q.drop (n + 1) ++ ls.flatten
      fsm := .vsync
      byteIdx := 24
      fbuf := u.fbuf.writeFrom u.byteIdx.toNat (u.q.take (n + 1))
      csumAcc := csUpTo (u.fbuf.writeFrom u.byteIdx.toNat (u.q.take (n + 1))) 24 } := by
  induction n generalizing u ls with
  | zero =>
    obtain ⟨b, rfl⟩ := List.length_eq_one_iff.mp hl
    obtain ⟨x, q, hx⟩ := List.exists_cons_of_length_pos (l := u.q) (by omega)
    have hk : u.byteIdx.toNat = 23 := by omega
    have hk' : u.byteIdx = 23 := BitVec.eq_of_toNat_eq hk
    have : tick (CycleIn.bytes b) u = .next (readByte x (q ++ b) (atEdge (CycleIn.bytes b) u)) := by
      rw [tick_read _ _ rfl hf, tickRead_cons _ x (q ++ b) (by simp [hx, CycleIn.bytes]) (by simp [hk])]
    simp only [List.map_cons, List.map_nil]
    rw [runCycles_cons _ _ _ _ this, runCycles_nil]
    have e : csAdd u.csumAcc 23 x = csUpTo (u.fbuf.write 23 x) 24 := by
      rw [csUpTo_succ_write _ hw, hc, hk]
    rw [hx, hk]
    simp only [readByte, atEdge_csumAcc, atEdge_byteIdx, atEdge_fbuf, hk, e]
    simp only [hk', if_true]
    obtain ⟨⟩ := u
    simp_all [atEdge, feed, pulsesFall, Memory.writeFrom]
  | succ n ih =>
    obtain ⟨b, ls, rfl⟩ := List.exists_cons_of_length_pos (l := ls) (by omega)
    obtain ⟨x, q, hx⟩ := List.exists_cons_of_length_pos (l := u.q) (by omega)
    have hlt : u.byteIdx.toNat < 24 := by omega
    have h1 : (u.byteIdx + 1).toNat = u.byteIdx.toNat + 1 := by
      simp
      omega
    have : tick (CycleIn.bytes b) u = .next { u with
        q := q ++ b
        fbuf := u.fbuf.write u.byteIdx.toNat x
        csumAcc := csAdd u.csumAcc u.byteIdx.toNat x
        byteIdx := u.byteIdx + 1 } := by
      rw [tick_read _ _ rfl hf, tickRead_cons _ x (q ++ b) (by simp [hx, CycleIn.bytes]) (by simpa using hlt)]
      have h23 : ¬ u.byteIdx.toNat = 23 := by omega
      simp only [readByte, atEdge_byteIdx]
      clear ih
      obtain ⟨⟩ := u
      simp_all [atEdge, feed, pulsesFall, CycleIn.bytes]
    simp only [List.map_cons]
    rw [runCycles_cons _ _ _ _ this, ih]
    · have hq' : n + 1 ≤ q.length := by
        rw [hx] at hq
        simpa using hq
      simp only [h1]
      have hz : n + 1 - q.length = 0 := by omega
      simp [hx, Memory.writeFrom, List.take_append, List.drop_append, hz]
    · exact hf
    · simp only [h1]
      omega
    · exact hr
    · exact hd
    · exact Memory.wf_write _ _ _ hw hlt
    · simp only [h1]
      rw [csUpTo_succ_write _ hw, hc]
    · rw [hx] at hq
      simp at hq ⊢
      omega
    · simpa using hl

/-- The drain of `n` bytes, with none arriving: `n + 1` cycles and the response. -/
theorem drain_run (n : Nat) (u : State) (hf : u.fsm = .drain) (hq : u.q.length = n) (hr : u.rsp = none)
    (hd : u.diag = none) :
    runCycles (List.replicate (n + 1) (CycleIn.bytes [])) u =
      .next (pollEnds u.pendStatus { u with q := [] }) := by
  induction n generalizing u with
  | zero =>
    have hq : u.q = [] := List.length_eq_zero_iff.mp hq
    have : tick (CycleIn.bytes []) u = .next (pollEnds u.pendStatus { u with q := [] }) := by
      rw [tick_drain _ _ rfl hf, tickDrain, if_pos ((rxAvail_eq_zero _).2 (by simp [hq, CycleIn.bytes]))]
      simp [atEdge, feed, pulsesFall, CycleIn.bytes, hq, pollEnds, respond]
    rw [List.replicate_succ, runCycles_cons _ _ _ _ this]
    rfl
  | succ n ih =>
    have hne : ¬ rxAvail (atEdge (CycleIn.bytes []) u) = 0 := by
      rw [rxAvail_eq_zero]
      intro h
      simp [CycleIn.bytes] at h
      simp [h] at hq
    have : tick (CycleIn.bytes []) u = .next { u with q := u.q.tail } := by
      rw [tick_drain _ _ rfl hf, tickDrain, if_neg hne]
      obtain ⟨⟩ := u
      simp_all [atEdge, feed, pulsesFall, CycleIn.bytes]
    rw [List.replicate_succ, runCycles_cons _ _ _ _ this]
    exact ih { u with q := u.q.tail } hf (by simp [hq]) hr hd

/-- One more cycle brings its own bytes. -/
theorem arrived_succ (arrivals : Nat → List Byte) (n : Nat) :
    arrived arrivals (n + 1) = arrived arrivals n + (arrivals n).length := by
  simp [arrived, List.range_succ]

/-- R243 in its own words: at most one byte a cycle, and never a byte in every cycle from some cycle on, is a fair
environment for every drain. -/
theorem drainFair_of_gaps (q : List Byte) (arrivals : Nat → List Byte) (h1 : ∀ k, (arrivals k).length ≤ 1)
    (hgap : ∀ n, ∃ k, n ≤ k ∧ arrivals k = []) : DrainFair q arrivals := by
  have slow : ∀ n d, arrived arrivals (n + d) ≤ arrived arrivals n + d := by
    intro n d
    induction d with
    | zero => exact Nat.le_refl _
    | succ d ih =>
      have := h1 (n + d)
      rw [← Nat.add_assoc, arrived_succ]
      omega
  have gain : ∀ m, ∃ n, arrived arrivals n + m ≤ n := by
    intro m
    induction m with
    | zero => exact ⟨0, by simp [arrived]⟩
    | succ m ih =>
      obtain ⟨n, hn⟩ := ih
      obtain ⟨k, hk, he⟩ := hgap n
      refine ⟨k + 1, ?_⟩
      have := slow n (k - n)
      rw [Nat.add_sub_cancel' hk] at this
      rw [arrived_succ, he, List.length_nil]
      omega
  obtain ⟨n, hn⟩ := gain (q.length + 1)
  refine ⟨n - 1, ?_⟩
  rw [show n - 1 + 1 = n by omega]
  omega

end Sys2Proof.Machine
end

