-- ==== Sys2Proof/Laws/Scaler.lean ====
section
/-! SUPPORT. The laws of the guarded arithmetic of the scaler, and what a numeric getter's response can be. -/

namespace Sys2Proof.Machine

@[simp] theorem exactNumerics_ofNat (n : Nat) : exactNumerics.ofNat n = (n : Rat) := rfl
@[simp] theorem exactNumerics_mul (a b : Num) : exactNumerics.mul a b = a * b := rfl
@[simp] theorem exactNumerics_div (a b : Num) : exactNumerics.div a b = a / b := rfl
@[simp] theorem exactNumerics_isZero (a : Num) : exactNumerics.isZero a = decide (a = 0) := rfl

@[simp] theorem ratio_zero (N : Numerics) (p : Nat) : ratio N p 0 = .div0 := rfl

theorem ratio_of_ne (N : Numerics) (p r : Nat) (h : r ≠ 0) : ratio N p r = .val (N.div (N.ofNat p) (N.ofNat r)) :=
  if_neg h

@[simp] theorem scale_val (N : Numerics) (x a : Num) : Res.scale N x (.val a) = .val (N.mul a x) := rfl
@[simp] theorem scale_div0 (N : Numerics) (x : Num) : Res.scale N x .div0 = .div0 := rfl
@[simp] theorem times_val (N : Numerics) (a b : Num) : Res.times N (.val a) (.val b) = .val (N.mul a b) := rfl
@[simp] theorem times_div0_left (N : Numerics) (r : Res) : Res.times N .div0 r = .div0 := rfl
@[simp] theorem times_div0_right (N : Numerics) (r : Res) : Res.times N r .div0 = .div0 := by cases r <;> rfl
@[simp] theorem over_div0_left (N : Numerics) (r : Res) : Res.over N .div0 r = .div0 := rfl
@[simp] theorem over_div0_right (N : Numerics) (r : Res) : Res.over N r .div0 = .div0 := by cases r <;> rfl

theorem over_of_zero (N : Numerics) (a b : Num) (h : N.isZero b = true) : Res.over N (.val a) (.val b) = .div0 :=
  if_pos h

theorem over_of_nonzero (N : Numerics) (a b : Num) (h : N.isZero b = false) :
    Res.over N (.val a) (.val b) = .val (N.div a b) :=
  if_neg (by simp [h])

/-- A bit vector's number is 0 exactly where the bit vector is. -/
theorem toNat_eq_zero_iff {w : Nat} (r : BitVec w) : r.toNat = 0 ↔ r = 0 := by
  constructor
  · intro h
    exact BitVec.eq_of_toNat_eq (by simpa using h)
  · rintro rfl
    simp

/-- A numeric getter's response is OK with the value or DIV0 with the sentinel. -/
theorem respondRes_cases (r : Res) (s : State) :
    (∃ x, r = .val x ∧ respondRes r s = respond .ok (.num x) s) ∨
    (r = .div0 ∧ respondRes r s = respond .div0 (.num div0Sentinel) s) := by
  cases r with
  | val x => exact .inl ⟨x, rfl, rfl⟩
  | div0 => exact .inr ⟨rfl, rfl⟩

/-- Whatever a numeric getter answers, the next state is the present one with a response, its diagnostic and `busy` low. -/
theorem respondRes_frame (r : Res) (s : State) :
    ∃ p : Response, respondRes r s = { s with rsp := some p, diag := p.status.diag, busy := false } := by
  cases r with
  | val x => exact ⟨{ status := .ok, result := .num x }, rfl⟩
  | div0 => exact ⟨{ status := .div0, result := .num div0Sentinel }, rfl⟩

end Sys2Proof.Machine
end

