-- ==== Sys2Proof/Tests/Slice0.lean ====
section
/-! SUPPORT. Tests: words written out from the encoding, single steps with the results of 95_test_vectors.md, and for each
obligation with hypotheses a concrete case that meets them. Expected values stand in the entries T3 to T9 and R146 of
the spec. -/

namespace Sys2Proof.Tests

open Machine

/-! ### Small states -/

/-- Frame F1 of 95_test_vectors.md. -/
def f1 : List Byte :=
  [0x00, 0x5A, 0x00, 0x00, 0x64, 0x00, 0x00, 0xC8, 0x00, 0x00, 0x0A, 0x00] ++
  [0x00, 0x14, 0x00, 0x00, 0x64, 0x00, 0x01, 0xF4, 0x70, 0x00, 0x10, 0x23]

/-- Frame F2 of 95_test_vectors.md. -/
def f2 : List Byte :=
  [0x00, 0x5A, 0x00, 0x00, 0x78, 0x00, 0x03, 0xE7, 0x00, 0x00, 0x1E, 0x00] ++
  [0x00, 0x28, 0x00, 0x00, 0xC8, 0x00, 0x03, 0x20, 0xB0, 0x00, 0x20, 0x63]

/-- Frame F3 of 95_test_vectors.md. -/
def f3 : List Byte :=
  [0x55, 0x5A, 0x00, 0x00, 0x01, 0x00, 0x00, 0x02, 0x00, 0x00, 0x03, 0x00] ++
  [0x00, 0x04, 0x00, 0x00, 0x05, 0x00, 0x00, 0x06, 0x8F, 0xFF, 0xFF, 0xA2]

/-- Frame F4 of 95_test_vectors.md. -/
def f4 : List Byte :=
  [0x00, 0x5A, 0x00, 0x00, 0x64, 0x00, 0x00, 0xC8, 0x00, 0x00, 0x0A, 0x00] ++
  [0x00, 0x14, 0x00, 0x00, 0x64, 0x00, 0x01, 0xF4, 0x70, 0x00, 0x10, 0x24]

/-- Frame F5 of 95_test_vectors.md. -/
def f5 : List Byte :=
  [0x00, 0x5B, 0x00, 0x00, 0x64, 0x00, 0x00, 0xC8, 0x00, 0x00, 0x0A, 0x00] ++
  [0x00, 0x14, 0x00, 0x00, 0x64, 0x00, 0x01, 0xF4, 0x70, 0x00, 0x10, 0x23]

/-- Frame F8 of 95_test_vectors.md. -/
def f8 : List Byte :=
  [0x00, 0x5A, 0x12, 0x34, 0x56, 0x78, 0x9A, 0xBC, 0xDE, 0xF0, 0x12, 0x34] ++
  [0x56, 0x78, 0x9A, 0xBC, 0xDE, 0xF0, 0x12, 0x34, 0xF0, 0xBE, 0xEF, 0x53]

/-- The latch `L1` of T3. -/
def l1 : Latch :=
  { vp := 100, vr := 200, ip := 10, ir := 20, pp := 100, pr := 500, pf := 16, pfOvfCnt := 0, frameOk := true }

/-- The latch `L2` of T3. -/
def l2 : Latch :=
  { vp := 120, vr := 200, ip := 30, ir := 40, pp := 200, pr := 800, pf := 32, pfOvfCnt := 1, frameOk := true }

/-- The reset state with these bytes in the transport and these arriving. -/
def waiting (q arrivals : List Byte) : State := { State.reset with q := q, arrivals := arrivals }

/-- The reset state with this latch, and the coefficients of the document's example. -/
def measured (L : Latch) : State := { State.reset with latch := L, kv := 1881, ki := 1000 }

/-- The reset state with this first move. -/
def moving (i : Input) : State := { State.reset with inputs := [i] }

/-- The reset state in this state of the state machine. -/
def inState (f : FsmState) (q : List Byte) : State := { State.reset with fsm := f, busy := true, q := q }

/-- A clock cycle with `rst`. -/
def resetCycle : CycleIn := { CycleIn.bytes [] with rst := true }

/-- What an outcome shows of its next state. -/
def shows {α : Type} (f : State → α) (o : Host.Outcome State Fault Refusal) : Option α :=
  match o with
  | .next t => some (f t)
  | .fault _ => none
  | .refused _ => none

/-- The status and the result of a response. -/
def reply (s : State) : Option (Status × Result) := s.rsp.map fun r => (r.status, r.result)

/-! ### Well-formedness -/

theorem test_wellformed_top : WellFormed (.getfrm 31) = true := by decide
theorem test_illformed_getfrm : WellFormed (.getfrm 32) = false := by decide

/-! ### Decoding: words written out as `cmd_idx(8:4) ++ cmd_op(3:0)` (R81, T8) -/

theorem test_decode_poll : decodeCmd (Cmd.ofWord (0b000000000#9) 1881) = .poll := by decide
theorem test_decode_setkv : decodeCmd (Cmd.ofWord (0b000000001#9) 1881) = .setkv 1881 := by decide
theorem test_decode_setki : decodeCmd (Cmd.ofWord (0b000000010#9) 1881) = .setki 1881 := by decide
theorem test_decode_getveff : decodeCmd (Cmd.ofWord (0b000000011#9) 1881) = .getveff := by decide
theorem test_decode_getveff_index_ignored : decodeCmd (Cmd.ofWord (0b111110011#9) 1881) = .getveff := by decide
theorem test_decode_getvdiv : decodeCmd (Cmd.ofWord (0b000000100#9) 1881) = .getvdiv := by decide
theorem test_decode_getieff : decodeCmd (Cmd.ofWord (0b000000101#9) 1881) = .getieff := by decide
theorem test_decode_getvsh : decodeCmd (Cmd.ofWord (0b000000110#9) 1881) = .getvsh := by decide
theorem test_decode_getpact : decodeCmd (Cmd.ofWord (0b000000111#9) 1881) = .getpact := by decide
theorem test_decode_getpapp : decodeCmd (Cmd.ofWord (0b000001000#9) 1881) = .getpapp := by decide
theorem test_decode_getpf : decodeCmd (Cmd.ofWord (0b000001001#9) 1881) = .getpf := by decide
theorem test_decode_getpfr : decodeCmd (Cmd.ofWord (0b000001010#9) 1881) = .getpfr := by decide
theorem test_decode_getpfa : decodeCmd (Cmd.ofWord (0b000001011#9) 1881) = .getpfa := by decide
theorem test_decode_getkwh : decodeCmd (Cmd.ofWord (0b000001100#9) 1881) = .getkwh := by decide
theorem test_decode_getok : decodeCmd (Cmd.ofWord (0b000001101#9) 1881) = .getok := by decide
theorem test_decode_getfrm_20 : decodeCmd (Cmd.ofWord (0b101001110#9) 1881) = .getfrm 20 := by decide
theorem test_decode_getfrm_31 : decodeCmd (Cmd.ofWord (0b111111110#9) 1881) = .getfrm 31 := by decide
theorem test_decode_ill : decodeCmd (Cmd.ofWord (0b000001111#9) 1881) = .ill := by decide
theorem test_decode_too_wide : decodeWord 512 0 = .error .widerThanNineBits := by decide
theorem test_encode_getfrm_20 : (encode (.getfrm 20)).word = 0x14E := by decide
theorem test_encode_getkwh : (encode .getkwh).word = 0x00C := by decide

/-! ### One command each -/

/-- V1. -/
theorem test_poll_commits : shows (·.latch) (exec .poll (waiting f1 [])) = some l1 := by decide

/-- V2: `vr` stays 200 although the frame holds 999, and the counter goes from 0 to 1. -/
theorem test_poll_is_sticky : shows (·.latch) (exec .poll { waiting f2 [] with latch := l1 }) = some l2 := by decide

theorem test_setkv : shows (fun t => (t.kv, reply t)) (exec (.setkv 1881) State.reset) =
    some (1881, some (.ok, .empty)) := rfl

theorem test_setki : shows (fun t => (t.ki, reply t)) (exec (.setki 1000) State.reset) =
    some (1000, some (.ok, .empty)) := rfl

theorem test_getveff : effectiveVoltage exactNumerics (measured l1) = .val (1881 / 2) := by
  simp [effectiveVoltage, dividerVoltage, ratio, measured, l1]
  norm_num

theorem test_getvdiv : dividerVoltage exactNumerics (measured l2) = .val (3 / 5) := by
  simp [dividerVoltage, ratio, measured, l2]
  norm_num

theorem test_getieff : effectiveCurrent exactNumerics (measured l2) = .val 750 := by
  simp [effectiveCurrent, shuntVoltage, ratio, measured, l2]
  norm_num

theorem test_getvsh : shuntVoltage exactNumerics (measured l2) = .val (3 / 4) := by
  simp [shuntVoltage, ratio, measured, l2]
  norm_num

theorem test_getpact : activePower exactNumerics (measured l1) = .val 376200 := by
  simp [activePower, ratio, measured, l1]
  norm_num

theorem test_getpapp : apparentPower exactNumerics (measured l2) = .val 846450 := by
  simp [apparentPower, effectiveVoltage, dividerVoltage, effectiveCurrent, shuntVoltage, ratio, measured, l2]
  norm_num

theorem test_getpf : powerFactor exactNumerics (measured l2) = .val (5 / 9) := by
  simp [powerFactor, activePower, apparentPower, effectiveVoltage, dividerVoltage, effectiveCurrent, shuntVoltage, ratio,
    measured, l2, Res.over]
  norm_num

theorem test_getkwh : energyKWh exactNumerics (measured l2) = .val (209 / 62500) := by
  simp [energyKWh, pulsesPerKWh, pfProduct, measured, l2, Res.over, c1e9, c3600]
  norm_num

/-- T7, second row: `kv * ki` is 0. -/
theorem test_getkwh_zero_coefficient : energyKWh exactNumerics { measured l1 with kv := 0 } = .div0 := by
  simp [energyKWh, pulsesPerKWh, measured, l1]

theorem test_getpfr : shows reply (exec .getpfr (measured l1)) = some (some (.ok, .int 16)) := by decide

/-- T7: the largest product, `(2^32 - 1) * 65535`. -/
theorem test_getpfa_largest : shows reply (exec .getpfa (measured { l1 with pf := 65535, pfOvfCnt := 0xFFFFFFFF })) =
    some (some (.ok, .int 281470681677825)) := by decide

theorem test_getok : shows reply (exec .getok (measured l1)) = some (some (.ok, .int 1)) := by decide

/-- T12: after a frame with a wrong sentinel the buffer holds that frame. -/
theorem test_getfrm_after_sync : ((acquire (waiting f5 [])).fbuf.read 1, (acquire (waiting f5 [])).fbuf.read 23) =
    (0x5B, 0x23) := by decide

theorem test_getfrm_24 : shows reply (exec (.getfrm 24) State.reset) = some (some (.illegal, .empty)) := by decide

theorem test_ill : shows (fun t => (reply t, t.diag)) (exec .ill State.reset) = some (some (.illegal, .empty), none) := by
  decide

/-! ### Parts of POLL -/

/-- V4: the diagnostic of a wrong checksum. -/
theorem test_checksum_diagnostic : (let t := validateAndCommit (acquire (waiting f4 [])); (reply t, diagCode t)) =
    (some (.chksum, .empty), some 4) := by decide

/-- P5: 30 bytes, of which the last six stay. -/
theorem test_trailing_bytes_stay : (acquire (waiting (f1 ++ [0x00, 0x5A, 0x00, 0x00, 0x78, 0x00]) [])).q =
    [0x00, 0x5A, 0x00, 0x00, 0x78, 0x00] := by decide

/-- R146. -/
theorem test_extract : (let x := extract (Memory.writeFrom [] 0 f8); (x.vp, x.vr, x.ip)) =
    (0x123456, 0x789ABC, 0xDEF012) := by decide

/-- R131, T4: 21 bytes of 0xFF. -/
theorem test_checksum_of_ones : cs (Memory.writeFrom [] 2 (List.replicate 21 0xFF)) = 0xEB := by decide

/-- T9, cycle 4: SAMPLE with 24 bytes. -/
theorem test_sample : shows (fun t => (t.fsm, t.nSample, t.byteIdx, t.csumAcc))
    (tick (CycleIn.bytes []) (inState .sample f1)) = some (.read, 24, 0, 0) := by decide

/-- T3, V1 by its script line: `FRAME 0x00 100 200 10 20 100 500 0x70 16` is F1. -/
theorem test_frame_line : (FrameFields.frame
    { st := 0, vp := 100, vr := 200, ip := 10, ir := 20, pp := 100, pr := 500, fl := 0x70, pf := 16 }) = f1 := by decide

/-! ### The hypotheses of the obligations can be met -/

theorem test_hyp_encoded_commands : WellFormed (.setkv 2) = true ∧ WellFormed (.getfrm 0) = true := by decide

theorem test_hyp_encoding_keeps : (encode (decodeCmd ⟨0xE, 31, 7⟩)).idx = 31 ∧ (encode (decodeCmd ⟨1, 31, 7⟩)).num = 7 ∧
    (encode (decodeCmd ⟨2, 31, 7⟩)).num = 7 := by decide

theorem test_hyp_opcode_alone : (0 : BitVec 4) ≠ 1 ∧ (0 : BitVec 4) ≠ 2 ∧ (0 : BitVec 4) ≠ 0xE ∧
    (3 : BitVec 4) ≠ 1 ∧ (3 : BitVec 4) ≠ 2 ∧ (3 : BitVec 4) ≠ 0xE := by decide

/-- Every kind of first move, the block ready and busy, and no move. -/
theorem test_hyp_step_runs :
    (moving (.command ⟨0, 0, 0⟩ [])).busy = false ∧
    ({ moving (.command ⟨0, 0, 0⟩ []) with busy := true } : State).busy = true ∧
    (moving .reset).inputs = [.reset] ∧ (moving (.feed [1])).inputs = [.feed [1]] ∧
    (moving (.clock resetCycle)).inputs = [.clock resetCycle] ∧ State.reset.inputs = [] :=
  ⟨rfl, rfl, rfl, rfl, rfl, rfl⟩

theorem test_hyp_placed_word : decodeTableWord 16 0x14E = some (.getfrm 20) := by decide

theorem test_hyp_poll_without_bytes : State.reset.q = [] := rfl

/-- One byte, and the boundary of 23. -/
theorem test_hyp_poll_short : (waiting [0] []).q ≠ [] ∧ (sampled (waiting [0] [])).length < 24 ∧
    (sampled (waiting [0] (List.replicate 22 0))).length < 24 := by decide

theorem test_hyp_poll_wrong_sentinel : (waiting f5 []).fbuf.wf = true ∧ (waiting f5 []).q ≠ [] ∧
    24 ≤ (sampled (waiting f5 [])).length ∧ frameAt (sampled (waiting f5 [])) 1 ≠ 0x5A := by decide

theorem test_hyp_poll_wrong_checksum : (waiting f4 []).fbuf.wf = true ∧ (waiting f4 []).q ≠ [] ∧
    24 ≤ (sampled (waiting f4 [])).length ∧ frameAt (sampled (waiting f4 [])) 1 = 0x5A ∧
    frameSum (sampled (waiting f4 [])) % 256 ≠ (frameAt (sampled (waiting f4 [])) 23).toNat := by decide

/-- A frame in the transport, and one of which all but the first byte arrives during the wait. -/
theorem test_hyp_poll_valid : (waiting f1 []).fbuf.wf = true ∧ (waiting f1 []).q ≠ [] ∧
    ValidFrame (sampled (waiting f1 [])) ∧ ValidFrame (sampled (waiting [0x55] f3.tail)) := by
  unfold ValidFrame
  decide

/-- The update bits and the overflow bit both set and clear (F1, F2, F3). -/
theorem test_hyp_update_bits : ValidFrame (sampled (waiting f2 [])) ∧ ValidFrame (sampled (waiting f3 [])) ∧
    (frameAt f1 20).getLsbD 6 = true ∧ (frameAt f2 20).getLsbD 6 = false ∧ (frameAt f2 20).getLsbD 5 = true ∧
    (frameAt f3 20).getLsbD 5 = false ∧ (frameAt f2 20).getLsbD 4 = true ∧ (frameAt f3 20).getLsbD 4 = false ∧
    (frameAt f1 20).getLsbD 7 = false ∧ (frameAt f2 20).getLsbD 7 = true := by
  unfold ValidFrame
  decide

/-- Both clauses of the frame of POLL. -/
theorem test_hyp_poll_frame : (shows id (exec .poll State.reset)).isSome = true ∧ State.reset.fbuf.wf = true ∧
    (shows id (exec .poll (waiting f1 []))).isSome = true ∧ 24 ≤ (sampled (waiting f1 [])).length := by decide

/-- The invariant in IDLE with a frame waiting, in READ, in DRAIN and in COMMIT. -/
theorem test_hyp_inv_idle : Inv (waiting f1 []) ∧ (shows id (step (waiting f1 []))).isSome = true :=
  ⟨⟨rfl, by decide, trivial, ⟨by decide, rfl⟩, by decide⟩, by decide⟩

theorem test_hyp_inv_read : Inv { inState .read f1 with csumAcc := 0 } :=
  ⟨rfl, by decide, ⟨by decide, by decide, rfl⟩, ⟨by decide, rfl⟩, by decide⟩

theorem test_hyp_inv_drain : Inv { inState .drain [1] with pendStatus := .sync } :=
  ⟨rfl, by decide, .inr rfl, ⟨by decide, rfl⟩, by decide⟩

theorem test_hyp_inv_commit : Inv { inState .commit [] with fbuf := Memory.writeFrom [] 0 f1 } :=
  ⟨by decide, by decide, ⟨by decide, by decide⟩, ⟨by decide, rfl⟩, by decide⟩

/-- A step answers a next state: one that leaves the latch, a reset edge, and a commit. -/
theorem test_hyp_latch_written : (shows (·.latch) (step State.reset)).isSome = true ∧
    shows (·.latch) (step { moving .reset with latch := l1 }) = some Latch.zero ∧
    shows (·.latch) (step { inState .commit [] with fbuf := Memory.writeFrom [] 0 f1 }) = some l1 := by decide

theorem test_hyp_success_flag : shows (·.latch.frameOk) (step (measured l1)) = some true ∧
    (measured l1).latch.frameOk = true ∧ (∀ rest, (measured l1).inputs ≠ .reset :: rest) ∧
    (∀ c rest, (measured l1).inputs = .clock c :: rest → c.rst = false) :=
  ⟨by decide, rfl, fun _ h => (by cases h), fun _ _ h => (by cases h)⟩

theorem test_hyp_getfrm : (0 : Nat) ≤ 23 ∧ (23 : Nat) ≤ 23 ∧ (24 : Nat) ≤ 24 ∧ (24 : Nat) ≤ 31 := by decide

theorem test_hyp_reserved : (⟨0xF, 31, 5⟩ : Cmd).op = 0xF := rfl

theorem test_hyp_built_frames : (Memory.writeFrom [] 0 f8).wf = true := by decide

/-- The values the two composite getters are stated over exist in every state, and a guard can fire and need not. -/
theorem test_hyp_composite_getters : (∃ a b : Num, a = Config.numerics.mul 1 2 ∧ b = Config.numerics.mul 3 4) ∧
    State.reset.latch.pr = 0 ∧ State.reset.latch.pp = 0 ∧ l1.pr ≠ 0 ∧ l1.vr ≠ 0 ∧ l1.ir ≠ 0 ∧ l1.pp ≠ 0 :=
  ⟨⟨_, _, rfl, rfl⟩, by decide⟩

theorem test_hyp_reference_instance : (measured l1).latch.pp ≠ 0 ∧ (measured l1).kv ≠ 0 ∧ (measured l1).ki ≠ 0 ∧
    l1.pr ≠ 0 ∧ l1.vr ≠ 0 ∧ l1.ir ≠ 0 ∧ l1.vp ≠ 0 ∧ l1.ip ≠ 0 ∧ State.reset.latch.pr = 0 := by
  decide

theorem test_hyp_zero_register : State.reset.latch.vr = 0 ∧ Instr.getpf ∈ [Instr.getvdiv, .getveff, .getpapp, .getpf] ∧
    State.reset.latch.ir = 0 ∧ Instr.getvsh ∈ [Instr.getvsh, .getieff, .getpapp, .getpf] ∧
    State.reset.latch.pr = 0 ∧ Instr.getpact ∈ [Instr.getpact, .getpf] ∧ State.reset.latch.pp = 0 := by decide

theorem test_hyp_reader : isReader (.getfrm 31) = true ∧ isReader .getveff = true ∧ isReader .ill = true ∧
    (shows id (exec .getok State.reset)).isSome = true := by decide

theorem test_hyp_ports : Instr.getkwh ∈ [Instr.getveff, .getvdiv, .getieff, .getvsh, .getpact, .getpapp, .getpf, .getkwh] ∧
    Instr.getok ∈ [Instr.getpfr, .getpfa, .getok] ∧ (∃ idx, Instr.getfrm 23 = .getfrm idx ∧ idx < 24) ∧
    (∃ x, Instr.setki 0 = .setkv x ∨ Instr.setki 0 = .setki x) ∧
    shows rspStatus (exec (.getfrm 24) State.reset) = some (some 6) ∧
    shows rspStatus (exec .getvdiv State.reset) = some (some 5) :=
  ⟨by decide, by decide, ⟨23, rfl, by decide⟩, ⟨0, .inr rfl⟩, by decide, by decide⟩

/-- A coefficient changes by its setter, and by a reset edge. -/
theorem test_hyp_coefficients :
    shows (·.kv) (step { moving (.command ⟨1, 0, 5⟩ []) with kv := 0 }) = some 5 ∧
    shows (·.ki) (step { moving (.clock (CycleIn.offer ⟨2, 0, 5⟩ [])) with ki := 0 }) = some 5 ∧
    shows (·.kv) (step { moving .reset with kv := Config.kvReset + 1 }) = some Config.kvReset ∧
    Config.kvReset + 1 ≠ Config.kvReset ∧ (moving (.command ⟨1, 0, 5⟩ [])).busy = false ∧
    (CycleIn.offer ⟨2, 0, 5⟩ []).cmdValid = true :=
  ⟨rfl, rfl, rfl, by simp, rfl, rfl⟩

theorem test_hyp_reset : State.reset = State.reset ∧ (∃ s, resetEdge (measured l1) = resetEdge s) ∧
    Instr.getkwh ∈ [Instr.getveff, .getvdiv, .getieff, .getvsh, .getpact, .getpapp, .getpf, .getkwh] ∧
    Instr.getok ∈ [Instr.getpfr, .getpfa, .getok] ∧ (0 : Nat) ≤ 23 ∧ (23 : Nat) ≤ 23 ∧
    resetCycle.rst = true :=
  ⟨rfl, ⟨_, rfl⟩, by decide, by decide, by decide, by decide, rfl⟩

/-- The clauses of an idle cycle: no offer, POLL without and with a byte, another command. -/
theorem test_hyp_idle_cycle : State.reset.fsm = .idle ∧ State.reset.busy = false ∧ (CycleIn.bytes []).cmdValid = false ∧
    (CycleIn.offer ⟨0, 0, 0⟩ []).cmdValid = true ∧ (CycleIn.offer ⟨0, 0, 0⟩ []).rst = false ∧
    State.reset.q ++ (CycleIn.offer ⟨0, 0, 0⟩ []).arrivals = [] ∧
    State.reset.q ++ (CycleIn.offer ⟨0, 0, 0⟩ [7]).arrivals ≠ [] ∧ (CycleIn.offer ⟨3, 0, 0⟩ []).cmd.op ≠ 0 := by
  decide

/-- SETTLE with the count at 0 and at 1, SAMPLE with 23 and with 24 bytes. -/
theorem test_hyp_settle_and_sample : ({ inState .settle [1] with settleCnt := 0 } : State).settleCnt = 0 ∧
    ({ inState .settle [1] with settleCnt := 1 } : State).settleCnt ≠ 0 ∧
    (inState .sample (List.replicate 23 0)).q.length < 24 ∧ ¬ (inState .sample f1).q.length < 24 := by decide

/-- READ at the offsets where the clauses meet. -/
theorem test_hyp_read_cycle : (inState .read f1).fsm = .read ∧ (inState .read f1).q ++ [] = 0 :: f1.tail ∧
    (∀ n ∈ [(1 : BitVec 5), 2, 22, 23], ({ inState .read f1 with byteIdx := n } : State).byteIdx.toNat ≤ 23) := by
  decide

theorem test_hyp_late_states : (inState .vsync []).fsm = .vsync ∧ (inState .vsum []).fsm = .vsum ∧
    (inState .commit []).fsm = .commit ∧ (inState .drain []).q = [] ∧ (inState .drain [1]).q ≠ [] ∧
    (inState .vsync []).fbuf.read 1 ≠ 0x5A := by decide

theorem test_hyp_tick_answers : (shows id (tick (CycleIn.bytes []) State.reset)).isSome = true ∧
    (shows id (tick resetCycle (inState .read []))).isSome = true := by decide

/-- A drain with two bytes and a fair environment, and one whose environment brings a byte in every cycle. -/
theorem test_hyp_drain : (inState .drain [1, 2]).fsm = .drain ∧ (∀ k : Nat, ((fun _ => CycleIn.bytes []) k).rst = false) ∧
    DrainFair (inState .drain [1, 2]).q (fun _ => (CycleIn.bytes []).arrivals) ∧
    (∀ k : Nat, ((fun _ => CycleIn.bytes [7]) k).rst = false) ∧
    ¬ DrainFair (inState .drain [1, 2]).q (fun _ => (CycleIn.bytes [7]).arrivals) :=
  ⟨rfl, fun _ => rfl, ⟨2, by decide⟩, fun _ => rfl, fun ⟨n, hn⟩ => by simp [arrived, CycleIn.bytes] at hn; omega⟩

theorem test_hyp_busy : (inState .settle [1]).busy = true := rfl

theorem test_hyp_pops : rxPop { inState .read f1 with csumAcc := 0 } = true ∧
    rxPop { inState .drain [1] with pendStatus := .sync } = true := by decide

/-- A cycle that pops the byte that arrives in it, one in DRAIN with nothing there, and one with `rst`. -/
theorem test_hyp_pop_cycles : shows (·.q) (tick (CycleIn.bytes [7]) (inState .drain [])) = some [] ∧
    rxPop (feed [7] (inState .drain [])) = true ∧ rxPop (feed [] (inState .drain [])) = false ∧
    (shows id (tick (CycleIn.bytes []) (inState .drain []))).isSome = true ∧
    shows (·.q) (tick resetCycle (inState .read [1])) = some [1] := by decide

/-- The clauses on the ports: no response and one of each kind, a diagnostic, an empty queue and a byte. -/
theorem test_hyp_port_values : State.reset.rsp = none ∧ State.reset.diag = none ∧ State.reset.q = [] ∧
    shows (·.rsp) (exec .getok State.reset) = some (some { status := .ok, result := .int 0 }) ∧
    shows (·.rsp) (exec .getvdiv State.reset) = some (some { status := .div0, result := .num (-1) }) ∧
    shows (·.diag) (exec .getvdiv State.reset) = some (some .div0) ∧ (waiting [7] []).q = 7 :: [] :=
  ⟨rfl, rfl, rfl, rfl, rfl, rfl, rfl⟩

/-- The refinement: a frame waiting, nothing arriving during any length of the settle wait. -/
theorem test_hyp_refinement : ∃ t, exec .poll { State.reset with
      q := State.reset.q ++ f1, arrivals := (List.replicate (Config.settleCycles + 2) ([] : List Byte)).flatten } =
        .next t ∧
    (List.replicate (Config.settleCycles + 2) ([] : List Byte)).length = Config.settleCycles + 2 ∧
    State.reset.fbuf.wf = true ∧ State.reset.fsm = .idle ∧ State.reset.busy = false ∧ State.reset.arrivals = [] ∧
    State.reset.q ++ f1 ≠ [] ∧
    24 ≤ (State.reset.q ++ f1 ++ (List.replicate (Config.settleCycles + 2) ([] : List Byte)).flatten).length ∧
    frameAt (State.reset.q ++ f1 ++ (List.replicate (Config.settleCycles + 2) ([] : List Byte)).flatten) 1 = 0x5A ∧
    (List.replicate (pollTailCycles (State.reset.q ++ f1) t.fbuf) ([] : List Byte)).length =
      pollTailCycles (State.reset.q ++ f1) t.fbuf := by
  have h : (List.replicate (Config.settleCycles + 2) ([] : List Byte)).flatten = [] := by simp
  rw [h]
  exact ⟨_, rfl, by simp, rfl, rfl, rfl, rfl, by decide, by decide, by decide, by simp⟩

end Sys2Proof.Tests
end

section
/-! PROOFS. 00_scope.md: one step is the meaning of the decoded command (O5), and the machine never stops while its
drain ends exactly where the environment is fair (O56). -/

namespace Sys2Proof.Machine

/-! ### The step, by its first move -/

/-- With no move left, a step is a clock cycle in which nothing is offered. -/
theorem step_of_inputs_nil (s : State) (h : s.inputs = []) : step s = tick (CycleIn.bytes []) s := by
  rw [step, advance, h]

/-- With a move left, a step takes the first one. -/
theorem step_of_inputs_cons (s : State) (i : Input) (rest : List Input) (h : s.inputs = i :: rest) :
    step s = takeInput i rest s := by
  rw [step, advance, h]

/-- A command the block is ready for is decoded and executed. -/
theorem issue_of_ready (cmd : Cmd) (arrivals : List Byte) (rest : List Input) (s : State) (hb : s.busy = false) :
    issue cmd arrivals rest s = exec (decodeCmd cmd) { s with inputs := rest, arrivals := arrivals } :=
  if_pos (by simp [cmdReady, hb])

/-- A command the block is not ready for waits while a clock cycle passes. -/
theorem issue_of_busy (cmd : Cmd) (arrivals : List Byte) (rest : List Input) (s : State) (hb : s.busy = true) :
    issue cmd arrivals rest s = tick (CycleIn.bytes []) s :=
  if_neg (by simp [cmdReady, hb])

/-- Settles O5, clause by clause from what a step does with its first move. -/
theorem stepRunsTheDecodedCommand : Obligations.StepRunsTheDecodedCommand := by
  intro s cmd arrivals bytes c rest
  refine ⟨fun h hb => ?ready, fun h hb => ?busy, fun h => ?reset, fun h => ?feed, fun h => ?clock, ?noMove⟩
  case ready => exact (step_of_inputs_cons s _ rest h).trans (issue_of_ready cmd arrivals rest s hb)
  case busy => exact (step_of_inputs_cons s _ rest h).trans (issue_of_busy cmd arrivals rest s hb)
  case reset => exact step_of_inputs_cons s _ rest h
  case feed => exact step_of_inputs_cons s _ rest h
  case clock => exact step_of_inputs_cons s _ rest h
  case noMove => exact step_of_inputs_nil s

/-! ### A sound state never stops -/

/-- Every command answers a next state, in every state. -/
theorem exec_answers_next (i : Instr) (s : State) : ∃ t, exec i s = .next t := by
  by_cases hi : i = .poll
  · subst hi
    obtain ⟨t, _, ht, _⟩ := exec_poll_cases s
    exact ⟨t, ht⟩
  · obtain ⟨_, _, _, ht, _⟩ := exec_of_ne_poll i hi s
    exact ⟨_, ht⟩

theorem tickAccept_answers_next (cmd : Cmd) (s : State) : ∃ t, tickAccept cmd s = .next t := by
  unfold tickAccept
  split_ifs
  · exact ⟨_, rfl⟩
  · exact ⟨_, rfl⟩
  · exact exec_answers_next _ s

theorem tickIdle_answers_next (c : CycleIn) (s : State) : ∃ t, tickIdle c s = .next t := by
  unfold tickIdle
  split_ifs
  · exact tickAccept_answers_next _ s
  · exact ⟨_, rfl⟩

/-- READ with an offset of the frame and the rest of the frame in the transport finds the byte it pops (R51). -/
theorem tickRead_answers_next (s : State) (hi : s.byteIdx.toNat < 24) (hq : 24 ≤ s.byteIdx.toNat + s.q.length) :
    ∃ t, tickRead s = .next t := by
  obtain ⟨b, rest, hbr⟩ := List.exists_cons_of_length_pos (l := s.q) (by omega)
  exact ⟨_, tickRead_cons s b rest hbr hi⟩

/-- A clock cycle answers a next state where the registers of the state machine mean what its state says: only READ has
a case that stops, and there they exclude it. -/
theorem tick_answers_next (c : CycleIn) (s : State) (h : fsmInv s) : ∃ t, tick c s = .next t := by
  cases hr : c.rst with
  | true => exact ⟨_, tick_reset c s hr⟩
  | false =>
    cases hf : s.fsm with
    | idle => exact tick_idle c s hr hf ▸ tickIdle_answers_next c _
    | settle => exact ⟨_, tick_settle c s hr hf⟩
    | sample => exact ⟨_, tick_sample c s hr hf⟩
    | vsync => exact ⟨_, tick_vsync c s hr hf⟩
    | vsum => exact ⟨_, tick_vsum c s hr hf⟩
    | commit => exact ⟨_, tick_commit c s hr hf⟩
    | drain => exact ⟨_, tick_drain c s hr hf⟩
    | read =>
      rw [fsmInv, hf] at h
      obtain ⟨hi, hq, _⟩ := h
      have hq' : 24 ≤ (atEdge c s).byteIdx.toNat + (atEdge c s).q.length := by
        simp only [atEdge_byteIdx, atEdge_q, List.length_append]
        omega
      exact tick_read c s hr hf ▸ tickRead_answers_next (atEdge c s) hi hq'

/-- No step from a sound state is a fault or a refusal (00_scope.md R12). -/
theorem step_answers_next (s : State) (h : Inv s) : ∃ t, step s = .next t := by
  obtain ⟨-, hs⟩ | ⟨rest, -, hs⟩ | ⟨bytes, rest, -, hs⟩ | ⟨cmd, arrivals, rest, -, -, hs⟩ |
    ⟨cmd, arrivals, rest, -, -, hs⟩ | ⟨c, rest, -, hs⟩ := step_cases s
  · exact hs ▸ tick_answers_next _ s h.fsm
  · exact ⟨_, hs⟩
  · exact ⟨_, hs⟩
  · exact hs ▸ exec_answers_next _ _
  · exact hs ▸ tick_answers_next _ s h.fsm
  · exact hs ▸ tick_answers_next c { s with inputs := rest } h.fsm

/-! ### The drain -/

/-- `t` is still in the drain that `s` is in: the status it will answer with, the latch and the frame buffer are the
same. -/
structure DrainGoesOn (s t : State) : Prop where
  fsm : t.fsm = .drain
  pendStatus : t.pendStatus = s.pendStatus
  latch : t.latch = s.latch
  fbuf : t.fbuf = s.fbuf

theorem DrainGoesOn.trans {s t u : State} (hst : DrainGoesOn s t) (htu : DrainGoesOn t u) : DrainGoesOn s u where
  fsm := htu.fsm
  pendStatus := htu.pendStatus.trans hst.pendStatus
  latch := htu.latch.trans hst.latch
  fbuf := htu.fbuf.trans hst.fbuf

/-- A cycle of DRAIN that sees a byte throws one away (40_frame_sync_fsm.md R118). -/
theorem tick_drain_pops (c : CycleIn) (s : State) (hr : c.rst = false) (hf : s.fsm = .drain)
    (hq : 0 < s.q.length + c.arrivals.length) :
    ∃ t, tick c s = .next t ∧ DrainGoesOn s t ∧ t.q.length + 1 = s.q.length + c.arrivals.length := by
  have hsees : ¬ rxAvail (atEdge c s) = 0 := by
    rw [rxAvail_eq_zero, ← List.length_eq_zero_iff, atEdge_q, List.length_append]
    omega
  refine ⟨{ atEdge c s with q := (atEdge c s).q.tail }, ?_, ⟨hf, rfl, rfl, rfl⟩, ?_⟩
  · rw [tick_drain c s hr hf, tickDrain, if_neg hsees]
  · simp only [atEdge_q, List.length_tail, List.length_append]
    omega

/-- A cycle of DRAIN that sees no byte ends the POLL with the pending status (R118). -/
theorem tick_drain_ends (c : CycleIn) (s : State) (hr : c.rst = false) (hf : s.fsm = .drain)
    (hq : s.q.length + c.arrivals.length = 0) :
    tick c s = .next (pollEnds s.pendStatus (atEdge c s)) ∧ (atEdge c s).q = [] := by
  have hempty : (atEdge c s).q = [] := by
    rw [← List.length_eq_zero_iff, atEdge_q, List.length_append, hq]
  rw [tick_drain c s hr hf, tickDrain, if_pos ((rxAvail_eq_zero _).2 hempty)]
  exact ⟨rfl, hempty⟩

/-- A cycle after the first `n` cycles of a sequence. -/
theorem runCycles_range_succ (cycles : Nat → CycleIn) (n : Nat) (s t : State)
    (h : runCycles ((List.range n).map cycles) s = .next t) :
    runCycles ((List.range (n + 1)).map cycles) s = runCycles [cycles n] t := by
  rw [List.range_succ, List.map_append, runCycles_append _ _ _ _ h, List.map_singleton]

section Drain
variable (s : State) (cycles : Nat → CycleIn) (hf : s.fsm = .drain) (hr : ∀ k, (cycles k).rst = false)
include hf hr

/-- As long as each cycle has had more bytes in the transport than the drain has thrown away before it, the drain goes
on, and the transport holds all that has been there but one byte a cycle. -/
theorem drain_goes_on (n : Nat)
    (hsees : ∀ m < n, m < s.q.length + arrived (fun k => (cycles k).arrivals) (m + 1)) :
    ∃ t, runCycles ((List.range n).map cycles) s = .next t ∧ DrainGoesOn s t ∧
      t.q.length + n = s.q.length + arrived (fun k => (cycles k).arrivals) n := by
  induction n with
  | zero => exact ⟨s, rfl, ⟨hf, rfl, rfl, rfl⟩, rfl⟩
  | succ n ih =>
    obtain ⟨t, hrun, hst, hlen⟩ := ih fun m hm => hsees m (by omega)
    have hn := hsees n (by omega)
    rw [arrived_succ] at hn
    obtain ⟨u, htick, htu, hpop⟩ := tick_drain_pops (cycles n) t (hr n) hst.fsm (by omega)
    refine ⟨u, ?_, hst.trans htu, ?_⟩
    · rw [runCycles_range_succ cycles n s t hrun, runCycles_cons _ _ _ _ htick, runCycles_nil]
    · rw [arrived_succ]
      omega

/-- Under the fairness premise the drain ends: at the first cycle by which no more bytes have been in the transport than
the drain has thrown away, it sees none. -/
theorem drain_ends_of_fair (hfair : DrainFair s.q (fun k => (cycles k).arrivals)) :
    ∃ n t, runCycles ((List.range (n + 1)).map cycles) s = .next t ∧ t.fsm = .idle ∧ t.busy = false ∧ t.q = [] ∧
      t.latch = s.latch ∧ t.fbuf = s.fbuf ∧ t.rsp = some { status := s.pendStatus, result := .empty } := by
  have hn := Nat.find_spec hfair
  have hbefore := fun m (hm : m < Nat.find hfair) => Nat.lt_of_not_le (Nat.find_min hfair hm)
  generalize Nat.find hfair = n at hn hbefore
  obtain ⟨t, hrun, hst, hlen⟩ := drain_goes_on s cycles hf hr n hbefore
  rw [arrived_succ] at hn
  obtain ⟨hend, hempty⟩ := tick_drain_ends (cycles n) t (hr n) hst.fsm (by omega)
  refine ⟨n, pollEnds t.pendStatus (atEdge (cycles n) t), ?_, rfl, rfl, hempty, hst.latch, hst.fbuf, ?_⟩
  · rw [runCycles_range_succ cycles n s t hrun, runCycles_cons _ _ _ _ hend, runCycles_nil]
  · rw [pollEnds_rsp, hst.pendStatus]

/-- Without the fairness premise every cycle sees a byte, and the drain never ends (93_implementation_defined.md U17). -/
theorem drain_goes_on_of_not_fair (hfair : ¬ DrainFair s.q (fun k => (cycles k).arrivals)) (n : Nat) :
    ∃ t, runCycles ((List.range n).map cycles) s = .next t ∧ t.fsm = .drain := by
  obtain ⟨t, hrun, hst, _⟩ := drain_goes_on s cycles hf hr n fun m _ => Nat.lt_of_not_le fun hm => hfair ⟨m, hm⟩
  exact ⟨t, hrun, hst.fsm⟩

end Drain

/-- Settles O56: the invariant excludes both stops of READ, and a drain loses one byte a cycle until a cycle sees
none. -/
theorem soundStateNeverStops : Obligations.SoundStateNeverStops :=
  ⟨step_answers_next, fun s cycles hf hr =>
    ⟨drain_ends_of_fair s cycles hf hr, drain_goes_on_of_not_fair s cycles hf hr⟩⟩

end Sys2Proof.Machine
end

section
/-! PROOFS. 10_state.md: every step keeps the invariant (O55), which the reset state meets (O54); who writes the
coefficients (O42); what the getters answer after reset (O45); a busy block ignores the command port (O51); the output
ports (O60). -/

namespace Sys2Proof.Machine

/-! ### The incremental checksum and the count of bytes -/

/-- The incremental checksum below offset 2 + n, for n up to 21, is the byte sum from offset 2 on, modulo 256. -/
theorem csUpTo_eq_byteSum (F : Memory) (n : Nat) (hn : n ≤ 21) :
    csUpTo F (2 + n) = BitVec.ofNat 8 (byteSum F 2 n) := by
  induction n with
  | zero => simp [csUpTo, csAdd, byteSum]
  | succ n ih =>
    rw [← Nat.add_assoc, csUpTo, csAdd, if_pos (by omega), ih (by omega), byteSum, BitVec.ofNat_add,
      BitVec.ofNat_toNat, BitVec.setWidth_eq]

/-- After the last byte of a frame the incremental checksum is the checksum: offset 23 adds nothing
(41_frame_validator_checksum.md R134). -/
theorem csUpTo_frame (F : Memory) : csUpTo F 24 = cs F := by
  rw [csUpTo, csAdd, if_neg (by decide)]
  exact csUpTo_eq_byteSum F 21 (Nat.le_refl 21)

/-- The count saturates well above the length of a frame, so SAMPLE compares the length of the queue. -/
theorem rxAvail_lt_frameLen (s : State) : rxAvail s < 24 ↔ s.q.length < 24 := by
  have hcount : (rxAvail s).toNat = min s.q.length 255 := by simp [rxAvail]
  rw [BitVec.lt_def, hcount]
  simp

/-- A cycle of READ that answers pops the oldest byte. -/
theorem tickRead_next (s t : State) (h : tickRead s = .next t) :
    ∃ b rest, s.q = b :: rest ∧ t = readByte b rest s := by
  unfold tickRead at h
  split at h
  · cases h
  · next b rest hq =>
    split_ifs at h
    cases h
    exact ⟨b, rest, hq, rfl⟩

/-! ### What the invariant says of the registers, state by state -/

theorem fsmInv_idle {s : State} (hf : s.fsm = .idle) : fsmInv s := by
  rw [fsmInv, hf]
  trivial

theorem fsmInv_settle {s : State} (hf : s.fsm = .settle) : fsmInv s ↔ s.q ≠ [] := by
  rw [fsmInv, hf]

theorem fsmInv_sample {s : State} (hf : s.fsm = .sample) : fsmInv s ↔ s.q ≠ [] := by
  rw [fsmInv, hf]

theorem fsmInv_read {s : State} (hf : s.fsm = .read) :
    fsmInv s ↔ s.byteIdx.toNat < 24 ∧ 24 ≤ s.byteIdx.toNat + s.q.length ∧
      s.csumAcc = csUpTo s.fbuf s.byteIdx.toNat := by
  rw [fsmInv, hf]

theorem fsmInv_vsync {s : State} (hf : s.fsm = .vsync) : fsmInv s ↔ s.csumAcc = cs s.fbuf := by
  rw [fsmInv, hf]

theorem fsmInv_vsum {s : State} (hf : s.fsm = .vsum) :
    fsmInv s ↔ s.csumAcc = cs s.fbuf ∧ syncOk s.fbuf = true := by
  rw [fsmInv, hf]

theorem fsmInv_commit {s : State} (hf : s.fsm = .commit) :
    fsmInv s ↔ syncOk s.fbuf = true ∧ sumOk s.fbuf = true := by
  rw [fsmInv, hf]

theorem fsmInv_drain {s : State} (hf : s.fsm = .drain) :
    fsmInv s ↔ s.pendStatus = .partialFrame ∨ s.pendStatus = .sync := by
  rw [fsmInv, hf]

/-- More bytes in the transport take nothing from what the registers mean (20_memory.md R52). -/
theorem fsmInv_feed (bytes : List Byte) (s : State) (h : fsmInv s) : fsmInv (feed bytes s) := by
  cases hf : s.fsm with
  | idle => exact fsmInv_idle hf
  | settle =>
    rw [fsmInv_settle hf] at h
    exact (fsmInv_settle (s := feed bytes s) hf).2 (List.append_ne_nil_of_left_ne_nil h bytes)
  | sample =>
    rw [fsmInv_sample hf] at h
    exact (fsmInv_sample (s := feed bytes s) hf).2 (List.append_ne_nil_of_left_ne_nil h bytes)
  | read =>
    obtain ⟨hidx, hlen, hsum⟩ := (fsmInv_read hf).1 h
    refine (fsmInv_read (s := feed bytes s) hf).2 ⟨hidx, ?_, hsum⟩
    simp only [feed_q, feed_byteIdx, List.length_append]
    omega
  | vsync => exact (fsmInv_vsync (s := feed bytes s) hf).2 ((fsmInv_vsync hf).1 h)
  | vsum => exact (fsmInv_vsum (s := feed bytes s) hf).2 ((fsmInv_vsum hf).1 h)
  | commit => exact (fsmInv_commit (s := feed bytes s) hf).2 ((fsmInv_commit hf).1 h)
  | drain => exact (fsmInv_drain (s := feed bytes s) hf).2 ((fsmInv_drain hf).1 h)

/-! ### The ways into a state that meets the invariant -/

/-- The state that a reset edge leaves meets the invariant, whatever was before. -/
theorem inv_resetEdge (s : State) : Inv (resetEdge s) where
  fbuf := rfl
  busy := by simp
  fsm := fsmInv_idle rfl
  port := ⟨fun _ => rfl, rfl⟩
  latch := fun _ => rfl

/-- The power-up state is what the reset edge number 0 leaves. -/
theorem reset_eq_resetEdge : State.reset = resetEdge { State.reset with draws := 0 } := rfl

/-- Settles O54: the reset state is the state after a reset edge. -/
theorem invariantHoldsAtReset : Obligations.InvariantHoldsAtReset := by
  rw [Obligations.InvariantHoldsAtReset, reset_eq_resetEdge]
  exact inv_resetEdge _

/-- A command has been answered: IDLE, ready, and the response with its diagnostic on the ports. -/
theorem inv_of_answered {t : State} {p : Response} (hfbuf : t.fbuf.wf = true) (hfsm : t.fsm = .idle)
    (hbusy : t.busy = false) (hrsp : t.rsp = some p) (hdiag : t.diag = p.status.diag)
    (hlatch : t.latch.frameOk = false → t.latch = Latch.zero) : Inv t where
  fbuf := hfbuf
  busy := by simp [hbusy, hfsm]
  fsm := fsmInv_idle hfsm
  port := ⟨by simp [hbusy], by simp [hrsp, hdiag]⟩
  latch := hlatch

/-- A command that the block has executed: every command answers, and leaves a sound state sound. -/
theorem inv_exec {i : Instr} {s t : State} (h : Inv s) (hidle : s.fsm = .idle) (ht : exec i s = .next t) : Inv t := by
  by_cases hi : i = .poll
  · subst hi
    obtain ⟨u, p, hu, -, -, hrsp, hdiag, hbusy, hfsm, -, -, hfbuf, hlatch⟩ := exec_poll_cases s
    obtain rfl : u = t := Host.Outcome.next.inj (hu.symm.trans ht)
    refine inv_of_answered ?_ (hfsm.elim id (·.trans hidle)) hbusy hrsp hdiag ?_
    · obtain hsame | ⟨bs, hlen, hwritten⟩ := hfbuf
      · exact hsame ▸ h.fbuf
      · exact hwritten ▸ Memory.wf_writeFrom bs s.fbuf 0 h.fbuf (by simpa using hlen)
    · obtain hsame | ⟨hcommit, -⟩ := hlatch
      · exact hsame ▸ h.latch
      · simp [hcommit, commit]
  · obtain ⟨kv, ki, p, hu, -⟩ := exec_of_ne_poll i hi s
    obtain rfl := Host.Outcome.next.inj (hu.symm.trans ht)
    exact inv_of_answered h.fbuf hidle rfl rfl rfl h.latch

/-- A POLL goes on: it is not in IDLE before or after, and it leaves busy, the ports and the latch alone. -/
theorem inv_of_poll_goes_on {s t : State} (h : Inv s) (hs : s.fsm ≠ .idle) (ht : t.fsm ≠ .idle)
    (hframe : t.busy = s.busy ∧ t.rsp = s.rsp ∧ t.diag = s.diag ∧ t.latch = s.latch)
    (hfbuf : t.fbuf.wf = true) (hregs : fsmInv t) : Inv t := by
  obtain ⟨hbusy, hrsp, hdiag, hlatch⟩ := hframe
  exact {
    fbuf := hfbuf
    busy := by rw [hbusy, h.busy]; exact ⟨fun _ => ht, fun _ => hs⟩
    fsm := hregs
    port := by rw [portInv, hbusy, hrsp, hdiag]; exact h.port
    latch := by rw [hlatch]; exact h.latch }

/-- Bytes reach the transport. -/
theorem inv_feed (bytes : List Byte) {s : State} (h : Inv s) : Inv (feed bytes s) :=
  { h with fsm := fsmInv_feed bytes s h.fsm }

/-- What a clock edge sees: the bytes of the cycle in the transport, the pulses of the last one fallen. -/
theorem inv_atEdge (c : CycleIn) {s : State} (h : Inv s) : Inv (atEdge c s) :=
  { inv_feed c.arrivals h with port := ⟨fun _ => rfl, rfl⟩ }

/-- A block that is ready is in IDLE (10_state.md R30; log 11). -/
theorem idle_of_ready {s : State} (h : Inv s) (hb : s.busy = false) : s.fsm = .idle := by
  by_contra hf
  simp [h.busy.2 hf] at hb

/-! ### One clock cycle, by the state of the machine -/

/-- R111: the command that starts a POLL finds a byte in the transport; any other command is executed. -/
theorem inv_tickAccept {cmd : Cmd} {s t : State} (h : Inv s) (hf : s.fsm = .idle) (hrsp : s.rsp = none)
    (hdiag : s.diag = none) (ht : tickAccept cmd s = .next t) : Inv t := by
  unfold tickAccept at ht
  split_ifs at ht with hpoll hempty
  · cases ht
    exact inv_of_answered h.fbuf hf rfl rfl rfl h.latch
  · cases ht
    exact {
      fbuf := h.fbuf
      busy := by simp
      fsm := (fsmInv_settle rfl).2 fun hq => hempty ((rxAvail_eq_zero s).2 hq)
      port := ⟨fun _ => hrsp, by simp [hrsp, hdiag]⟩
      latch := h.latch }
  · exact inv_exec h hf ht

/-- R111, R33: with nothing to accept, IDLE changes nothing. -/
theorem inv_tickIdle {c : CycleIn} {s t : State} (h : Inv s) (hf : s.fsm = .idle) (hrsp : s.rsp = none)
    (hdiag : s.diag = none) (ht : tickIdle c s = .next t) : Inv t := by
  unfold tickIdle at ht
  split_ifs at ht
  · exact inv_tickAccept h hf hrsp hdiag ht
  · cases ht
    exact h

/-- R112: the byte that started the POLL stays in the transport. -/
theorem inv_tickSettle {s : State} (h : Inv s) (hf : s.fsm = .settle) : Inv (tickSettle s) := by
  have hq := (fsmInv_settle hf).1 h.fsm
  unfold tickSettle
  split_ifs
  · exact inv_of_poll_goes_on h (by simp [hf]) (by simp) ⟨rfl, rfl, rfl, rfl⟩ h.fbuf ((fsmInv_sample rfl).2 hq)
  · exact inv_of_poll_goes_on h (by simp [hf]) (by simp [hf]) ⟨rfl, rfl, rfl, rfl⟩ h.fbuf
      ((fsmInv_settle (s := { s with settleCnt := s.settleCnt - 1 }) hf).2 hq)

/-- R113: READ starts with 24 bytes in the transport, DRAIN with PARTIAL pending. -/
theorem inv_tickSample {s : State} (h : Inv s) (hf : s.fsm = .sample) : Inv (tickSample s) := by
  unfold tickSample
  split_ifs with hshort
  · exact inv_of_poll_goes_on h (by simp [hf]) (by simp) ⟨rfl, rfl, rfl, rfl⟩ h.fbuf ((fsmInv_drain rfl).2 (.inl rfl))
  · rw [rxAvail_lt_frameLen, Nat.not_lt] at hshort
    exact inv_of_poll_goes_on h (by simp [hf]) (by simp) ⟨rfl, rfl, rfl, rfl⟩ h.fbuf
      ((fsmInv_read rfl).2 ⟨by simp, by simpa using hshort, rfl⟩)

/-- R114: a popped byte takes `byte_idx` and the incremental checksum one offset further. -/
theorem inv_readByte {b : Byte} {rest : List Byte} {s : State} (h : Inv s) (hf : s.fsm = .read)
    (hq : s.q = b :: rest) : Inv (readByte b rest s) := by
  obtain ⟨hidx, hlen, hsum⟩ := (fsmInv_read hf).1 h.fsm
  have hsum' : (readByte b rest s).csumAcc =
      csUpTo (readByte b rest s).fbuf (s.byteIdx.toNat + 1) := by
    rw [readByte_csumAcc, readByte_fbuf, csUpTo_succ_write s.fbuf h.fbuf, hsum]
  refine inv_of_poll_goes_on h (by simp [hf]) (by rw [readByte_fsm]; split_ifs <;> simp) ⟨rfl, rfl, rfl, rfl⟩
    (Memory.wf_write s.fbuf _ b h.fbuf hidx) ?_
  by_cases hlast : s.byteIdx.toNat = 23
  · rw [fsmInv_vsync (by simp [hlast]), hsum', hlast, csUpTo_frame]
  · have hnext : (s.byteIdx + 1).toNat = s.byteIdx.toNat + 1 := by bv_omega
    rw [hq, List.length_cons] at hlen
    rw [fsmInv_read (by simp [hlast]), readByte_byteIdx, hnext, readByte_q]
    exact ⟨by omega, by omega, hsum'⟩

/-- R114: a cycle of READ that does not stop pops a byte. -/
theorem inv_tickRead {s t : State} (h : Inv s) (hf : s.fsm = .read) (ht : tickRead s = .next t) : Inv t := by
  obtain ⟨b, rest, hq, rfl⟩ := tickRead_next s t ht
  exact inv_readByte h hf hq

/-- R115: VSUM starts with the sentinel test passed, DRAIN with SYNC pending. -/
theorem inv_tickVsync {s : State} (h : Inv s) (hf : s.fsm = .vsync) : Inv (tickVsync s) := by
  have hsum := (fsmInv_vsync hf).1 h.fsm
  unfold tickVsync
  split_ifs with hsync
  · exact inv_of_poll_goes_on h (by simp [hf]) (by simp) ⟨rfl, rfl, rfl, rfl⟩ h.fbuf
      ((fsmInv_vsum rfl).2 ⟨hsum, decide_eq_true hsync⟩)
  · exact inv_of_poll_goes_on h (by simp [hf]) (by simp) ⟨rfl, rfl, rfl, rfl⟩ h.fbuf ((fsmInv_drain rfl).2 (.inr rfl))

/-- R116: COMMIT starts with both tests passed. -/
theorem inv_tickVsum {s : State} (h : Inv s) (hf : s.fsm = .vsum) : Inv (tickVsum s) := by
  obtain ⟨hacc, hsync⟩ := (fsmInv_vsum hf).1 h.fsm
  unfold tickVsum
  split_ifs with hsum
  · exact inv_of_poll_goes_on h (by simp [hf]) (by simp) ⟨rfl, rfl, rfl, rfl⟩ h.fbuf
      ((fsmInv_commit rfl).2 ⟨hsync, decide_eq_true (hacc.symm.trans hsum)⟩)
  · exact inv_of_answered h.fbuf rfl rfl rfl rfl h.latch

/-- R117: a committed latch has its success flag set. -/
theorem inv_tickCommit {s : State} (h : Inv s) : Inv (tickCommit s) :=
  inv_of_answered h.fbuf rfl rfl rfl rfl (by simp [tickCommit, commit])

/-- R118: the pending status outlives every byte thrown away, and ends the POLL. -/
theorem inv_tickDrain {s : State} (h : Inv s) (hf : s.fsm = .drain) : Inv (tickDrain s) := by
  have hpend := (fsmInv_drain hf).1 h.fsm
  unfold tickDrain
  split_ifs
  · exact inv_of_answered h.fbuf rfl rfl rfl rfl h.latch
  · exact inv_of_poll_goes_on h (by simp [hf]) (by simp [hf]) ⟨rfl, rfl, rfl, rfl⟩ h.fbuf
      ((fsmInv_drain (s := { s with q := s.q.tail }) hf).2 hpend)

/-- A clock cycle from a sound state ends in a sound state. -/
theorem inv_tick {c : CycleIn} {s t : State} (h : Inv s) (ht : tick c s = .next t) : Inv t := by
  have hu := inv_atEdge c h
  cases hr : c.rst with
  | true =>
    rw [tick_reset c s hr] at ht
    cases ht
    exact inv_resetEdge _
  | false =>
    cases hf : s.fsm with
    | idle => exact inv_tickIdle hu hf rfl rfl (tick_idle c s hr hf ▸ ht)
    | read => exact inv_tickRead hu hf (tick_read c s hr hf ▸ ht)
    | settle => exact Host.Outcome.next.inj ((tick_settle c s hr hf).symm.trans ht) ▸ inv_tickSettle hu hf
    | sample => exact Host.Outcome.next.inj ((tick_sample c s hr hf).symm.trans ht) ▸ inv_tickSample hu hf
    | vsync => exact Host.Outcome.next.inj ((tick_vsync c s hr hf).symm.trans ht) ▸ inv_tickVsync hu hf
    | vsum => exact Host.Outcome.next.inj ((tick_vsum c s hr hf).symm.trans ht) ▸ inv_tickVsum hu hf
    | commit => exact Host.Outcome.next.inj ((tick_commit c s hr hf).symm.trans ht) ▸ inv_tickCommit hu
    | drain => exact Host.Outcome.next.inj ((tick_drain c s hr hf).symm.trans ht) ▸ inv_tickDrain hu hf

/-- The invariant says nothing of the moves to come. -/
theorem inv_withMoves (rest : List Input) (arrivals : List Byte) {s : State} (h : Inv s) :
    Inv { s with inputs := rest, arrivals := arrivals } :=
  { h with }

/-- Settles O55, move by move. -/
theorem stepKeepsTheInvariant : Obligations.StepKeepsTheInvariant := by
  intro s t h ht
  obtain ⟨-, hs⟩ | ⟨rest, -, hs⟩ | ⟨bytes, rest, -, hs⟩ | ⟨cmd, arrivals, rest, -, hb, hs⟩ |
    ⟨cmd, arrivals, rest, -, -, hs⟩ | ⟨c, rest, -, hs⟩ := step_cases s <;> rw [hs] at ht
  · exact inv_tick h ht
  · cases ht
    exact inv_resetEdge _
  · cases ht
    exact inv_feed bytes (inv_withMoves rest s.arrivals h)
  · have hidle := idle_of_ready h hb
    exact inv_exec (inv_withMoves rest arrivals h) hidle ht
  · exact inv_tick h ht
  · exact inv_tick (inv_withMoves rest s.arrivals h) ht

/-! ### Who writes the coefficients -/

/-- From `s` to `t` a coefficient changes only where `P` holds of the setter of its new value. -/
def CoefficientsWrittenBy (P : Instr → Prop) (s t : State) : Prop :=
  (t.kv ≠ s.kv → P (.setkv t.kv)) ∧ (t.ki ≠ s.ki → P (.setki t.ki))

theorem coefficientsWrittenBy_of_eq (P : Instr → Prop) {s t : State} (hkv : t.kv = s.kv) (hki : t.ki = s.ki) :
    CoefficientsWrittenBy P s t :=
  ⟨fun h => absurd hkv h, fun h => absurd hki h⟩

theorem coefficientsWrittenBy_of_forall {P : Instr → Prop} (h : ∀ i, P i) (s t : State) :
    CoefficientsWrittenBy P s t :=
  ⟨fun _ => h _, fun _ => h _⟩

/-- A weaker condition, from a state with the same coefficients. -/
theorem CoefficientsWrittenBy.imp {P Q : Instr → Prop} {s u t : State} (h : CoefficientsWrittenBy P u t)
    (hkv : u.kv = s.kv) (hki : u.ki = s.ki) (hPQ : ∀ i, P i → Q i) : CoefficientsWrittenBy Q s t := by
  obtain ⟨hwkv, hwki⟩ := h
  rw [hkv] at hwkv
  rw [hki] at hwki
  exact ⟨fun hne => hPQ _ (hwkv hne), fun hne => hPQ _ (hwki hne)⟩

/-- A command writes a coefficient only by being its setter. -/
theorem exec_writes_coefficients (i : Instr) (s t : State) (ht : exec i s = .next t) :
    CoefficientsWrittenBy (i = ·) s t := by
  by_cases hi : i = .poll
  · subst hi
    obtain ⟨u, -, hu, hkv, hki, -⟩ := exec_poll_cases s
    obtain rfl : u = t := Host.Outcome.next.inj (hu.symm.trans ht)
    exact coefficientsWrittenBy_of_eq _ hkv hki
  · obtain ⟨kv, ki, p, hu, hkv, hki⟩ := exec_of_ne_poll i hi s
    obtain rfl := Host.Outcome.next.inj (hu.symm.trans ht)
    exact ⟨hkv, hki⟩

/-- A command accepted in a clock cycle writes a coefficient only by decoding to its setter. -/
theorem tickAccept_writes_coefficients (cmd : Cmd) (s t : State) (ht : tickAccept cmd s = .next t) :
    CoefficientsWrittenBy (decodeCmd cmd = ·) s t := by
  unfold tickAccept at ht
  split_ifs at ht
  · cases ht
    exact coefficientsWrittenBy_of_eq _ rfl rfl
  · cases ht
    exact coefficientsWrittenBy_of_eq _ rfl rfl
  · exact exec_writes_coefficients _ s t ht

/-- A state of the machine other than IDLE writes no coefficient. -/
theorem tickFsm_keeps_coefficients (c : CycleIn) (s t : State) (hf : s.fsm ≠ .idle) (ht : tickFsm c s = .next t) :
    t.kv = s.kv ∧ t.ki = s.ki := by
  cases hst : s.fsm <;> rw [tickFsm, hst] at ht
  case idle => exact absurd hst hf
  case read =>
    obtain ⟨b, rest, -, rfl⟩ := tickRead_next s t ht
    exact ⟨rfl, rfl⟩
  all_goals cases ht
  case settle => unfold tickSettle; split_ifs <;> exact ⟨rfl, rfl⟩
  case sample => unfold tickSample; split_ifs <;> exact ⟨rfl, rfl⟩
  case vsync => unfold tickVsync; split_ifs <;> exact ⟨rfl, rfl⟩
  case vsum => unfold tickVsum; split_ifs <;> exact ⟨rfl, rfl⟩
  case commit => exact ⟨rfl, rfl⟩
  case drain => unfold tickDrain; split_ifs <;> exact ⟨rfl, rfl⟩

/-- A clock cycle writes a coefficient only by its reset or by accepting the setter. -/
theorem tick_writes_coefficients (c : CycleIn) (s t : State) (ht : tick c s = .next t) :
    CoefficientsWrittenBy
      (fun i => c.rst = true ∨ (c.cmdValid = true ∧ s.busy = false ∧ decodeCmd c.cmd = i)) s t := by
  cases hr : c.rst with
  | true => exact coefficientsWrittenBy_of_forall (fun _ => .inl rfl) s t
  | false =>
    by_cases hf : s.fsm = .idle
    · rw [tick_idle c s hr hf, tickIdle] at ht
      split_ifs at ht with haccept
      · simp only [Bool.and_eq_true, Bool.not_eq_true', atEdge_busy] at haccept
        obtain ⟨hvalid, hready⟩ := haccept
        exact (tickAccept_writes_coefficients c.cmd (atEdge c s) t ht).imp rfl rfl
          fun i hi => .inr ⟨hvalid, hready, hi⟩
      · cases ht
        exact coefficientsWrittenBy_of_eq _ rfl rfl
    · rw [tick_run c s hr] at ht
      obtain ⟨hkv, hki⟩ := tickFsm_keeps_coefficients c (atEdge c s) t hf ht
      exact coefficientsWrittenBy_of_eq _ hkv hki

/-- A cycle in which nothing is offered writes no coefficient. -/
theorem tick_bytes_writes_no_coefficients (arrivals : List Byte) (s t : State)
    (ht : tick (CycleIn.bytes arrivals) s = .next t) (P : Instr → Prop) : CoefficientsWrittenBy P s t :=
  (tick_writes_coefficients _ s t ht).imp rfl rfl fun i hi => by simp [CycleIn.bytes] at hi

/-- Settles O42, move by move. -/
theorem coefficientsWrittenOnlyBySettersAndReset : Obligations.CoefficientsWrittenOnlyBySettersAndReset := by
  intro s t ht
  show CoefficientsWrittenBy (fun i => ∃ rest, s.inputs = .reset :: rest ∨
    (∃ c, s.inputs = .clock c :: rest ∧
      (c.rst = true ∨ (c.cmdValid = true ∧ s.busy = false ∧ decodeCmd c.cmd = i))) ∨
    ∃ c a, s.inputs = .command c a :: rest ∧ s.busy = false ∧ decodeCmd c = i) s t
  obtain ⟨-, hs⟩ | ⟨rest, hi, hs⟩ | ⟨bytes, rest, -, hs⟩ | ⟨cmd, arrivals, rest, hi, hb, hs⟩ |
    ⟨cmd, arrivals, rest, -, -, hs⟩ | ⟨c, rest, hi, hs⟩ := step_cases s <;> rw [hs] at ht
  · exact tick_bytes_writes_no_coefficients _ s t ht _
  · exact coefficientsWrittenBy_of_forall (fun _ => ⟨rest, .inl hi⟩) s t
  · cases ht
    exact coefficientsWrittenBy_of_eq _ rfl rfl
  · exact (exec_writes_coefficients _ { s with inputs := rest, arrivals := arrivals } t ht).imp rfl rfl
      fun i hd => ⟨rest, .inr (.inr ⟨cmd, arrivals, hi, hb, hd⟩)⟩
  · exact tick_bytes_writes_no_coefficients _ s t ht _
  · exact (tick_writes_coefficients c { s with inputs := rest } t ht).imp rfl rfl
      fun i hd => ⟨rest, .inr (.inl ⟨c, hi, hd⟩)⟩

/-! ### The getters on the reset latch -/

section ResetLatch
variable (N : Numerics) {s : State} (hl : s.latch = Latch.zero)
include hl

theorem dividerVoltage_of_reset_latch : dividerVoltage N s = .div0 := by simp [dividerVoltage, hl, Latch.zero]

theorem effectiveVoltage_of_reset_latch : effectiveVoltage N s = .div0 := by
  simp [effectiveVoltage, dividerVoltage_of_reset_latch N hl]

theorem shuntVoltage_of_reset_latch : shuntVoltage N s = .div0 := by simp [shuntVoltage, hl, Latch.zero]

theorem effectiveCurrent_of_reset_latch : effectiveCurrent N s = .div0 := by
  simp [effectiveCurrent, shuntVoltage_of_reset_latch N hl]

theorem activePower_of_reset_latch : activePower N s = .div0 := by simp [activePower, hl, Latch.zero]

theorem apparentPower_of_reset_latch : apparentPower N s = .div0 := by
  simp [apparentPower, effectiveVoltage_of_reset_latch N hl]

theorem powerFactor_of_reset_latch : powerFactor N s = .div0 := by
  simp [powerFactor, activePower_of_reset_latch N hl]

theorem pulsesPerKWh_of_reset_latch : pulsesPerKWh N s = .div0 := if_pos (by simp [hl, Latch.zero])

theorem energyKWh_of_reset_latch : energyKWh N s = .div0 := by
  simp [energyKWh, pulsesPerKWh_of_reset_latch N hl]

end ResetLatch

/-- A numeric getter whose value is `Div0` answers DIV0 with the sentinel (R170). -/
theorem respondRes_answers_div0 {i : Instr} {r : Res} {s : State} (hexec : exec i s = .next (respondRes r s))
    (hr : r = .div0) : ∃ t, exec i s = .next t ∧ t.rsp = some { status := .div0, result := .num (-1) } := by
  subst hr
  exact ⟨_, hexec, rfl⟩

/-- On the reset latch every numeric getter divides by zero. -/
theorem numeric_getters_answer_div0 {s : State} (hl : s.latch = Latch.zero) :
    ∀ i ∈ [Instr.getveff, .getvdiv, .getieff, .getvsh, .getpact, .getpapp, .getpf, .getkwh],
      ∃ t, exec i s = .next t ∧ t.rsp = some { status := .div0, result := .num (-1) } := by
  simp only [List.forall_mem_cons]
  exact ⟨respondRes_answers_div0 rfl (effectiveVoltage_of_reset_latch _ hl),
    respondRes_answers_div0 rfl (dividerVoltage_of_reset_latch _ hl),
    respondRes_answers_div0 rfl (effectiveCurrent_of_reset_latch _ hl),
    respondRes_answers_div0 rfl (shuntVoltage_of_reset_latch _ hl),
    respondRes_answers_div0 rfl (activePower_of_reset_latch _ hl),
    respondRes_answers_div0 rfl (apparentPower_of_reset_latch _ hl),
    respondRes_answers_div0 rfl (powerFactor_of_reset_latch _ hl),
    respondRes_answers_div0 rfl (energyKWh_of_reset_latch _ hl), by simp⟩

/-- On the reset latch every integer getter answers 0. -/
theorem integer_getters_answer_zero {s : State} (hl : s.latch = Latch.zero) :
    ∀ i ∈ [Instr.getpfr, .getpfa, .getok],
      ∃ t, exec i s = .next t ∧ t.rsp = some { status := .ok, result := .int 0 } := by
  simp only [List.forall_mem_cons]
  exact ⟨⟨_, rfl, by simp [hl, Latch.zero]⟩, ⟨_, rfl, by simp [hl, Latch.zero, pfProduct]⟩,
    ⟨_, rfl, by simp [hl, Latch.zero, flagInt]⟩, by simp⟩

/-- `GETFRM` on the reset frame buffer answers the byte 0x00 for every offset of a frame. -/
theorem getfrm_answers_zero {s : State} (hb : s.fbuf = []) (idx : Nat) (hi : idx ≤ 23) :
    ∃ t, exec (.getfrm idx) s = .next t ∧ t.rsp = some { status := .ok, result := .int 0 } :=
  ⟨_, if_pos (Nat.lt_succ_of_le hi), by simp [hb]⟩

/-- Settles O45: power-up is a reset edge too, and a reset edge leaves the reset latch and the reset frame buffer. -/
theorem gettersRightAfterReset : Obligations.GettersRightAfterReset := by
  intro s hs
  obtain ⟨u, rfl⟩ : ∃ u, s = resetEdge u := hs.elim (fun h => ⟨_, h.trans reset_eq_resetEdge⟩) id
  exact ⟨numeric_getters_answer_div0 rfl, integer_getters_answer_zero rfl, getfrm_answers_zero rfl⟩

/-! ### A busy block and its command port -/

/-- IDLE accepts nothing while busy (R33). -/
theorem tickIdle_of_busy (c : CycleIn) {s : State} (hb : s.busy = true) : tickIdle c s = .next s :=
  if_neg (by simp [hb])

/-- While busy no state of the machine looks at the inputs of the cycle. -/
theorem tickFsm_of_busy (c c' : CycleIn) {s : State} (hb : s.busy = true) : tickFsm c s = tickFsm c' s := by
  unfold tickFsm
  split
  · rw [tickIdle_of_busy c hb, tickIdle_of_busy c' hb]
  all_goals rfl

/-- While busy a clock cycle depends on its `rst` and on the bytes that arrive in it alone. -/
theorem tick_of_busy {c c' : CycleIn} {s : State} (hb : s.busy = true) (hrst : c.rst = c'.rst)
    (harrivals : c.arrivals = c'.arrivals) : tick c s = tick c' s := by
  have hedge : (pulsesFall (feed c'.arrivals s)).busy = true := hb
  rw [tick, tick, hrst, harrivals, tickFsm_of_busy c c' hedge]

/-- Settles O51: only IDLE reads the command port, and only while not busy. -/
theorem busyBlockIgnoresOffers : Obligations.BusyBlockIgnoresOffers :=
  fun _ _ hb => tick_of_busy hb rfl rfl

/-! ### The output ports -/

/-- The number of each state of the machine (40_frame_sync_fsm.md R110). -/
theorem fsmState_code_mem (f : FsmState) :
    (f, f.code) ∈ [(FsmState.idle, 0), (.settle, 1), (.sample, 2), (.read, 3), (.vsync, 4), (.vsum, 5),
      (.commit, 6), (.drain, 7)] := by
  cases f <;> decide

/-- The number of each status (30_encoding.md R86). -/
theorem status_code_mem (st : Status) :
    (st, some st.code) ∈ [(Status.ok, some (0 : BitVec 4)), (.nodata, some 1), (.partialFrame, some 2),
      (.sync, some 3), (.chksum, some 4), (.div0, some 5), (.illegal, some 6)] := by
  cases st <;> decide

/-- The number of each diagnostic (R88). -/
theorem diag_code_mem (d : Diag) :
    (d, some d.code) ∈ [(Diag.chksum, some (4 : BitVec 4)), (.div0, some 5)] := by
  cases d <;> decide

/-- With no response the response ports are silent (log 9). -/
theorem ports_of_no_response {s : State} (h : s.rsp = none) :
    rspValid s = false ∧ rspStatus s = none ∧ rspNum s = none ∧ rspInt s = none := by
  simp [rspValid, rspStatus, rspNum, rspInt, h]

/-- With a response the ports show it. -/
theorem ports_of_response {s : State} {r : Response} (h : s.rsp = some r) :
    rspValid s = true ∧ rspStatus s = some r.status.code ∧ rspNum s = r.result.num? ∧ rspInt s = r.result.int? := by
  simp [rspValid, rspStatus, rspNum, rspInt, h]

/-- Settles O60, port by port. -/
theorem portsShowTheState : Obligations.PortsShowTheState := by
  intro s
  refine ⟨fsmState_code_mem s.fsm, rfl, rfl, ports_of_no_response, fun r hr => ?response, fun hd => ?noDiag,
    fun d hd => ?diag, fun hq => ?empty, fun b rest hq => ?oldest⟩
  case response =>
    obtain ⟨hvalid, hstatus, hnum, hint⟩ := ports_of_response hr
    rw [hvalid, hstatus, hnum, hint]
    exact ⟨rfl, status_code_mem r.status, fun x hx => by rw [hx]; rfl, fun v hv => by rw [hv]; rfl⟩
  case noDiag => simp [diagValid, diagCode, hd]
  case diag =>
    rw [diagValid, diagCode, hd]
    exact ⟨rfl, diag_code_mem d⟩
  case empty => rw [rxData, hq]; rfl
  case oldest => rw [rxData, hq]; rfl

end Sys2Proof.Machine

end

section
/-! PROOFS. 20_memory.md: when the block pops the transport (O52), and what a clock cycle takes from it (O59). -/

namespace Sys2Proof.Machine

/-! ### Where `rx_pop` is 1 -/

/-- `rx_pop`, by the state of the machine (40_frame_sync_fsm.md R111 to R118). -/
theorem rxPop_eq_true_iff (s : State) : rxPop s = true ↔ s.fsm = .read ∨ (s.fsm = .drain ∧ rxAvail s ≠ 0) := by
  cases hf : s.fsm <;> simp [rxPop, hf]

/-- The invariant keeps the rest of the frame in the transport during READ, at least one byte. -/
theorem rxAvail_ne_zero_of_read {s : State} (h : fsmInv s) (hf : s.fsm = .read) : rxAvail s ≠ 0 := by
  obtain ⟨hidx, hlen, -⟩ := (fsmInv_read hf).1 h
  rw [Ne, rxAvail_eq_zero, ← List.length_eq_zero_iff]
  omega

/-- Settles O52: READ finds a byte by the invariant, DRAIN by its own test. -/
theorem blockNeverPopsAnEmptyTransport : Obligations.BlockNeverPopsAnEmptyTransport := by
  refine fun s => ⟨rxPop_eq_true_iff s, fun h hpop => ?_⟩
  obtain hread | ⟨-, hsees⟩ := (rxPop_eq_true_iff s).1 hpop
  · exact rxAvail_ne_zero_of_read h.fsm hread
  · exact hsees

/-! ### What an edge takes from the transport -/

/-- A cycle of DRAIN throws away the oldest byte, and does nothing to an empty transport (R118). -/
theorem tickDrain_q (s : State) : (tickDrain s).q = s.q.tail := by
  unfold tickDrain
  split_ifs with hempty
  · rw [pollEnds_q, (rxAvail_eq_zero s).1 hempty, List.tail_nil]
  · rfl

/-- Only `POLL` reaches for the transport (20_memory.md R53). -/
theorem exec_keeps_q {i : Instr} (hi : i ≠ .poll) {s t : State} (ht : exec i s = .next t) : t.q = s.q := by
  obtain ⟨kv, ki, p, hu, -⟩ := exec_of_ne_poll i hi s
  obtain rfl := Host.Outcome.next.inj (hu.symm.trans ht)
  rfl

/-- IDLE takes no byte: the `POLL` that it accepts only starts, and any other command leaves the transport alone. -/
theorem tickIdle_keeps_q {c : CycleIn} {s t : State} (ht : tickIdle c s = .next t) : t.q = s.q := by
  unfold tickIdle tickAccept at ht
  split_ifs at ht with haccept hpoll hempty
  · cases ht; rfl
  · cases ht; rfl
  · exact exec_keeps_q (decodeCmd_ne_poll c.cmd hpoll) ht
  · cases ht; rfl

/-- Where `rx_pop` is 1 an edge without `rst` takes the oldest byte. -/
theorem tickFsm_takes_oldest {c : CycleIn} {s t : State} (hpop : rxPop s = true) (ht : tickFsm c s = .next t) :
    ∃ b, s.q = b :: t.q := by
  obtain hf | ⟨hf, hsees⟩ := (rxPop_eq_true_iff s).1 hpop <;> rw [tickFsm, hf] at ht
  · obtain ⟨b, rest, hq, rfl⟩ := tickRead_next s t ht
    exact ⟨b, hq⟩
  · cases ht
    obtain ⟨b, rest, hq⟩ := List.exists_cons_of_ne_nil (mt (rxAvail_eq_zero s).2 hsees)
    exact ⟨b, by rw [tickDrain_q, hq, List.tail_cons]⟩

/-- Where `rx_pop` is 0 an edge without `rst` takes no byte. -/
theorem tickFsm_keeps_q {c : CycleIn} {s t : State} (hpop : rxPop s = false) (ht : tickFsm c s = .next t) :
    t.q = s.q := by
  have hno : ¬ (s.fsm = .read ∨ (s.fsm = .drain ∧ rxAvail s ≠ 0)) := by
    rw [← rxPop_eq_true_iff, hpop]
    exact Bool.false_ne_true
  cases hf : s.fsm <;> rw [tickFsm, hf] at ht
  case idle => exact tickIdle_keeps_q ht
  case read => exact absurd (.inl hf) hno
  all_goals cases ht
  case settle => unfold tickSettle; split_ifs <;> rfl
  case sample => unfold tickSample; split_ifs <;> rfl
  case vsync => unfold tickVsync; split_ifs <;> rfl
  case vsum => unfold tickVsum; split_ifs <;> rfl
  case commit => rfl
  case drain =>
    have hempty : s.q = [] := (rxAvail_eq_zero s).1 (not_not.1 fun hsees => hno (.inr ⟨hf, hsees⟩))
    rw [tickDrain_q, hempty, List.tail_nil]

/-- The pulses of the last cycle have no part in `rx_pop`: it is the same before the edge and at it. -/
theorem rxPop_atEdge (c : CycleIn) (s : State) : rxPop (atEdge c s) = rxPop (feed c.arrivals s) := rfl

/-- Settles O59: an edge with `rst` keeps the transport (70_reset_and_hazards.md R233), and one without it acts on the
bytes that were there with those of the cycle behind them. -/
theorem eachPopTakesTheOldestByte : Obligations.EachPopTakesTheOldestByte := by
  intro s t c ht
  cases hr : c.rst with
  | true =>
    rw [tick_reset c s hr] at ht
    cases ht
    exact ⟨fun h => Bool.noConfusion h, fun _ => rfl⟩
  | false =>
    rw [tick_run c s hr] at ht
    refine ⟨fun _ hpop => ?pop, fun hno => ?keep⟩
    case pop =>
      obtain ⟨b, hb⟩ := tickFsm_takes_oldest (rxPop_atEdge c s ▸ hpop) ht
      rw [atEdge_q] at hb
      exact ⟨b, by rw [rxData, feed_q, hb, List.head?_cons], hb⟩
    case keep =>
      have hpop := hno.resolve_left Bool.false_ne_true
      exact tickFsm_keeps_q (rxPop_atEdge c s ▸ hpop) ht

end Sys2Proof.Machine

end

section
/-! PROOFS. 30_encoding.md: the encoder and the decoder agree (O1, O2), what selects an operation and its operands
(O3, O4, O6), the encodings that answer ILLEGAL (O21, O22), and what each response drives (O41). -/

namespace Sys2Proof

/-! ### The decoder and the encoder -/

/-- Any command decodes to an instruction whose operand fits its field. -/
theorem wellFormed_decodeCmd (c : Cmd) : WellFormed (decodeCmd c) = true := by
  unfold decodeCmd
  split
  case h_15 => exact decide_eq_true c.idx.isLt
  all_goals rfl

/-- The decoder undoes the encoder: only the offset of `GETFRM` could be lost in its field. -/
theorem decodeCmd_encode {i : Instr} (hi : WellFormed i = true) : decodeCmd (encode i) = i := by
  cases i
  case getfrm idx =>
    have hidx : idx < 2 ^ 5 := of_decide_eq_true hi
    exact congrArg Instr.getfrm ((BitVec.toNat_ofNat idx 5).trans (Nat.mod_eq_of_lt hidx))
  all_goals rfl

/-- The encoder undoes the decoder up to the fields that the opcode ignores, where it writes zeros (R82, log 15). -/
theorem encode_decodeCmd (c : Cmd) :
    encode (decodeCmd c) =
      { op := c.op, idx := if c.op = 0xE then c.idx else 0, num := if c.op = 1 ∨ c.op = 2 then c.num else 0 } := by
  obtain ⟨⟨n, hn⟩, idx, num⟩ := c
  interval_cases n
  -- opcode 0xE, the fifteenth: the offset goes through a number and back into its field
  on_goal 15 => exact congrArg (Cmd.mk 0xE · 0) ((BitVec.ofNat_toNat 5 idx).trans (BitVec.setWidth_eq idx))
  all_goals rfl

/-- Settles O1: the word loses nothing of the triple, and the triple nothing of a well-formed instruction. -/
theorem encodedCommandsDecodeToThemselves : Obligations.EncodedCommandsDecodeToThemselves := by
  intro i hi
  rw [Cmd.ofWord_word]
  exact ⟨decodeCmd_encode hi, decodeCmd_encode hi⟩

/-- Settles O2, field by field. -/
theorem encodingKeepsOpcodeAndOperand : Obligations.EncodingKeepsOpcodeAndOperand := by
  intro c
  refine ⟨?op, decodeCmd_encode (wellFormed_decodeCmd c), fun hop => ?idx, fun hop => ?num⟩
  case op => rw [encode_decodeCmd]
  case idx => rw [encode_decodeCmd, if_pos hop]
  case num => rw [encode_decodeCmd, if_pos hop]

/-! ### What selects an operation and its operands -/

/-- Two commands that agree in what the encoder keeps of them are the same instruction. -/
theorem decodeCmd_eq_of_encode_eq {c c' : Cmd} (h : encode (decodeCmd c) = encode (decodeCmd c')) :
    decodeCmd c = decodeCmd c' := by
  rw [← decodeCmd_encode (wellFormed_decodeCmd c), h, decodeCmd_encode (wellFormed_decodeCmd c')]

/-- Settles O3: away from the three opcodes with an operand, the encoder keeps the opcode alone. -/
theorem opcodeAloneSelectsTheOperation : Obligations.OpcodeAloneSelectsTheOperation := by
  intro op idx idx' num num'
  refine ⟨fun hkv hki hfrm => decodeCmd_eq_of_encode_eq ?_, rfl, rfl, rfl⟩
  rw [encode_decodeCmd, encode_decodeCmd, if_neg hfrm, if_neg hfrm, if_neg (not_or_intro hkv hki),
    if_neg (not_or_intro hkv hki)]

/-- A word of at most 9 bits decodes as the command that it carries. -/
theorem decodeWord_of_lt {w : Nat} (hw : w < 512) (num : Num) :
    decodeWord w num = .ok (decodeCmd (Cmd.ofWord (BitVec.ofNat 9 w) num)) :=
  if_pos hw

/-- A wider word is rejected (log 15). -/
theorem decodeWord_of_ge {w : Nat} (hw : 512 ≤ w) (num : Num) : decodeWord w num = .error .widerThanNineBits :=
  if_neg (Nat.not_lt.mpr hw)

/-- What the decoder reads from a word of the opcode table is the command in the word's 9 bits. -/
theorem decodeTableWord_eq_some_iff {nbits w : Nat} {i : Instr} :
    decodeTableWord nbits w = some i ↔
      w % 2 ^ nbits < 512 ∧ decodeCmd (Cmd.ofWord (BitVec.ofNat 9 (w % 2 ^ nbits)) 0) = i := by
  rcases Nat.lt_or_ge (w % 2 ^ nbits) 512 with hw | hw
  · simp [decodeTableWord, decodeWord_of_lt hw, hw]
  · simp [decodeTableWord, decodeWord_of_ge hw, Nat.not_lt.mpr hw]

/-- Settles O4: eight words in the range of R81 and one above it. -/
theorem tableWordsDecodeAsTheTableSays : Obligations.TableWordsDecodeAsTheTableSays := by
  unfold Obligations.TableWordsDecodeAsTheTableSays
  decide

end Sys2Proof

namespace Sys2Proof.Machine

/-- A placed command is the next step's, whatever the state was doing. -/
theorem step_placeCommand (cmd : Cmd) (s : State) :
    step (placeCommand cmd s) = exec (decodeCmd cmd) { s with busy := false, fsm := .idle, arrivals := [] } :=
  (step_of_inputs_cons (placeCommand cmd s) (.command cmd []) s.inputs rfl).trans
    (issue_of_ready cmd [] s.inputs (placeCommand cmd s) rfl)

/-- Settles O6: a placed word is a placed command. -/
theorem placedWordRunsNext : Obligations.PlacedWordRunsNext := by
  intro s nbits w i hw
  obtain ⟨-, rfl⟩ := decodeTableWord_eq_some_iff.1 hw
  exact step_placeCommand _ s

/-! ### The encodings that answer ILLEGAL -/

/-- `GETFRM` with an offset of a frame reads that byte (43_telemetry_register_latch.md R161). -/
theorem exec_getfrm_of_lt {idx : Nat} (hidx : idx < 24) (s : State) :
    exec (.getfrm idx) s = .next (respond .ok (.int ((s.fbuf.read idx).setWidth 48)) s) :=
  if_pos hidx

/-- `GETFRM` with any other offset (R84). -/
theorem exec_getfrm_of_ge {idx : Nat} (hidx : 24 ≤ idx) (s : State) :
    exec (.getfrm idx) s = .next (respond .illegal .empty s) :=
  if_neg (Nat.not_lt.mpr hidx)

/-- Settles O21: ILLEGAL carries no diagnostic, and `respond` changes nothing but the ports and `busy`. -/
theorem getfrmBeyondTheFrameIsIllegal : Obligations.GetfrmBeyondTheFrameIsIllegal :=
  fun s _ hidx => exec_getfrm_of_ge hidx s

/-- Opcode 0xF is the reserved instruction, whatever its operands (R83). -/
theorem decodeCmd_of_op_reserved {c : Cmd} (hop : c.op = 0xF) : decodeCmd c = .ill := by
  rw [decodeCmd, hop]
  rfl

/-- Settles O22: what decodes to `ILL` answers ILLEGAL, and `respond` changes nothing but the ports and `busy`. -/
theorem reservedOpcodeAnswersIllegal : Obligations.ReservedOpcodeAnswersIllegal := by
  intro s c hop
  rw [decodeCmd_of_op_reserved hop]
  rfl

/-! ### What each response drives -/

/-- A response of a numeric getter: OK with a number, or DIV0 with the sentinel (R87, R170). -/
def NumericAnswer (r : Response) : Prop :=
  (∃ x, r = { status := .ok, result := .num x }) ∨ r = { status := .div0, result := .num div0Sentinel }

/-- A response of an integer getter: OK with an integer (R87). -/
def IntegerAnswer (r : Response) : Prop := ∃ v, r = { status := .ok, result := .int v }

/-- What kind of response each command gives (R87). -/
def AnswersInKind (i : Instr) (r : Response) : Prop :=
  match i with
  | .getveff | .getvdiv | .getieff | .getvsh | .getpact | .getpapp | .getpf | .getkwh => NumericAnswer r
  | .getpfr | .getpfa | .getok => IntegerAnswer r
  | .getfrm idx => if idx < 24 then IntegerAnswer r else r.result = .empty
  | .poll | .setkv _ | .setki _ | .ill => r.result = .empty

theorem answersInKind_getfrm_of_lt {idx : Nat} {r : Response} (hidx : idx < 24) :
    AnswersInKind (.getfrm idx) r ↔ IntegerAnswer r :=
  iff_of_eq (if_pos hidx)

theorem answersInKind_getfrm_of_ge {idx : Nat} {r : Response} (hidx : 24 ≤ idx) :
    AnswersInKind (.getfrm idx) r ↔ r.result = .empty :=
  iff_of_eq (if_neg (Nat.not_lt.mpr hidx))

/-- The state shows the response `r` of a command that is complete, with the diagnostic of its status (R120, R216). -/
def Shows (t : State) (r : Response) : Prop := t.rsp = some r ∧ t.diag = r.status.diag ∧ t.busy = false

theorem respond_shows (st : Status) (res : Result) (s : State) :
    Shows (respond st res s) { status := st, result := res } :=
  ⟨rfl, rfl, rfl⟩

/-- The scaler's result becomes a numeric answer. -/
theorem respondRes_shows (res : Res) (s : State) : ∃ r, Shows (respondRes res s) r ∧ NumericAnswer r := by
  cases res with
  | val x => exact ⟨_, respond_shows .ok (.num x) s, .inl ⟨x, rfl⟩⟩
  | div0 => exact ⟨_, respond_shows .div0 (.num div0Sentinel) s, .inr rfl⟩

/-- The end of a `POLL` that read a frame gives no result. -/
theorem validateAndCommit_shows (s : State) : ∃ r, Shows (validateAndCommit s) r ∧ r.result = .empty := by
  unfold validateAndCommit
  split_ifs <;> exact ⟨_, respond_shows _ .empty _, rfl⟩

/-- Whatever its outcome, a `POLL` gives no result. -/
theorem exec_poll_shows (s : State) : ∃ t r, exec .poll s = .next t ∧ Shows t r ∧ r.result = .empty := by
  by_cases hq : s.q = []
  · exact ⟨_, _, exec_poll_empty s hq, respond_shows .nodata .empty _, rfl⟩
  rcases Nat.lt_or_ge (sampled s).length 24 with hlen | hlen
  · exact ⟨_, _, exec_poll_short s hq hlen, respond_shows .partialFrame .empty _, rfl⟩
  · obtain ⟨r, hr⟩ := validateAndCommit_shows (acquire (settleAndSample s))
    exact ⟨_, r, exec_poll_read s hq hlen, hr⟩

/-- Every command completes with a response of its kind. -/
theorem exec_answersInKind (i : Instr) (s : State) : ∃ t r, exec i s = .next t ∧ Shows t r ∧ AnswersInKind i r := by
  have numeric (res : Res) : ∃ t r, Host.Outcome.next (φ := Fault) (ρ := Refusal) (respondRes res s) = .next t ∧
      Shows t r ∧ NumericAnswer r :=
    ⟨_, (respondRes_shows res s).imp fun _ hr => ⟨rfl, hr⟩⟩
  cases i
  case poll => exact exec_poll_shows s
  case setkv | setki => exact ⟨_, _, rfl, respond_shows .ok .empty _, rfl⟩
  case getveff | getvdiv | getieff | getvsh | getpact | getpapp | getpf | getkwh => exact numeric _
  case getpfr | getpfa | getok => exact ⟨_, _, rfl, respond_shows .ok (.int _) s, _, rfl⟩
  case ill => exact ⟨_, _, rfl, respond_shows .illegal .empty s, rfl⟩
  case getfrm idx =>
    rcases Nat.lt_or_ge idx 24 with hidx | hidx
    · exact ⟨_, _, exec_getfrm_of_lt hidx s, respond_shows .ok (.int _) s,
        (answersInKind_getfrm_of_lt hidx).2 ⟨_, rfl⟩⟩
    · exact ⟨_, _, exec_getfrm_of_ge hidx s, respond_shows .illegal .empty s,
        (answersInKind_getfrm_of_ge hidx).2 rfl⟩

/-- A response is numeric, an integer, or without result. -/
theorem AnswersInKind.cases {i : Instr} {r : Response} (h : AnswersInKind i r) :
    NumericAnswer r ∨ IntegerAnswer r ∨ r.result = .empty := by
  cases i
  case poll | setkv | setki | ill => exact .inr (.inr h)
  case getpfr | getpfa | getok => exact .inr (.inl h)
  case getveff | getvdiv | getieff | getvsh | getpact | getpapp | getpf | getkwh => exact .inl h
  case getfrm idx =>
    rcases Nat.lt_or_ge idx 24 with hidx | hidx
    · exact .inr (.inl ((answersInKind_getfrm_of_lt hidx).1 h))
    · exact .inr (.inr ((answersInKind_getfrm_of_ge hidx).1 h))

/-- An ILLEGAL response has no result (R83, R84). -/
theorem AnswersInKind.result_of_illegal {i : Instr} {r : Response} (h : AnswersInKind i r)
    (hst : r.status = .illegal) : r.result = .empty := by
  rcases h.cases with (⟨x, rfl⟩ | rfl) | ⟨v, rfl⟩ | hempty
  · cases hst
  · cases hst
  · cases hst
  · exact hempty

/-- The diagnostic's code is the status's own for CHKSUM and DIV0, and there is none otherwise (R88). -/
theorem status_diag_code (st : Status) :
    st.diag.map Diag.code =
      if some st.code = some 4 then some 4 else if some st.code = some 5 then some 5 else none := by
  cases st <;> rfl

/-- ILLEGAL alone has code 6 (R86). -/
theorem status_eq_illegal_of_code {st : Status} (h : some st.code = some 6) : st = .illegal := by
  cases st
  case illegal => rfl
  all_goals exact absurd h (by decide)

/-- A numeric answer drives `rsp_num` alone, with -1 where the status is DIV0 (R87, R170). -/
theorem NumericAnswer.drives_num {r : Response} (h : NumericAnswer r) :
    r.result.num?.isSome = true ∧ r.result.int? = none ∧
      (some r.status.code = some 5 → r.result.num? = some (-1)) := by
  rcases h with ⟨x, rfl⟩ | rfl
  · exact ⟨rfl, rfl, fun hcode => absurd hcode (show ¬ some Status.ok.code = some 5 by decide)⟩
  · exact ⟨rfl, rfl, fun _ => rfl⟩

/-- An integer answer is OK and drives `rsp_int` alone (R87). -/
theorem IntegerAnswer.drives_int {r : Response} (h : IntegerAnswer r) :
    some r.status.code = some 0 ∧ r.result.int?.isSome = true ∧ r.result.num? = none := by
  obtain ⟨v, rfl⟩ := h
  exact ⟨rfl, rfl, rfl⟩

theorem numericAnswer_of_mem {r : Response} :
    ∀ i ∈ [Instr.getveff, .getvdiv, .getieff, .getvsh, .getpact, .getpapp, .getpf, .getkwh],
      AnswersInKind i r → NumericAnswer r := by
  simp only [List.forall_mem_cons]
  exact ⟨id, id, id, id, id, id, id, id, by simp⟩

theorem integerAnswer_of_mem {r : Response} :
    ∀ i ∈ [Instr.getpfr, .getpfa, .getok], AnswersInKind i r → IntegerAnswer r := by
  simp only [List.forall_mem_cons]
  exact ⟨id, id, id, by simp⟩

/-- The integer getters and `GETFRM` inside the frame answer with an integer (R87). -/
theorem AnswersInKind.integerAnswer {i : Instr} {r : Response} (h : AnswersInKind i r)
    (hi : i ∈ [Instr.getpfr, .getpfa, .getok] ∨ ∃ idx, i = .getfrm idx ∧ idx < 24) : IntegerAnswer r := by
  rcases hi with hi | ⟨idx, rfl, hidx⟩
  · exact integerAnswer_of_mem i hi h
  · exact (answersInKind_getfrm_of_lt hidx).1 h

/-- `POLL`, the setters and every ILLEGAL response drive no result port (R87). -/
theorem AnswersInKind.result_empty {i : Instr} {r : Response} (h : AnswersInKind i r)
    (hi : i = .poll ∨ (∃ x, i = .setkv x ∨ i = .setki x) ∨ some r.status.code = some 6) : r.result = .empty := by
  rcases hi with rfl | ⟨x, rfl | rfl⟩ | hcode
  · exact h
  · exact h
  · exact h
  · exact h.result_of_illegal (status_eq_illegal_of_code hcode)

/-- Settles O41: the ports show the response, and its kind says which result port it drives. -/
theorem responsesDriveTheirPorts : Obligations.ResponsesDriveTheirPorts := by
  intro i s
  obtain ⟨t, r, hexec, ⟨hrsp, hdiag, hbusy⟩, hkind⟩ := exec_answersInKind i s
  obtain ⟨hvalid, hstatus, hnum, hint⟩ := ports_of_response hrsp
  refine ⟨t, r, hexec, hrsp, hvalid, ?_⟩
  rw [cmdReady, hbusy, hstatus, hnum, hint, diagValid, diagCode, hdiag]
  exact ⟨rfl, status_code_mem r.status, fun hi => (numericAnswer_of_mem i hi hkind).drives_num,
    fun hi => (hkind.integerAnswer hi).drives_int, fun hi => by rw [hkind.result_empty hi]; exact ⟨rfl, rfl⟩,
    status_diag_code r.status, Option.isSome_map.symm⟩

end Sys2Proof.Machine

end

section
/-! PROOFS. 40_frame_sync_fsm.md: `POLL` by its outcomes (O7 to O11) and what it leaves unchanged (O13), and the state
machine cycle by cycle (O46 to O50, O53). -/

namespace Sys2Proof.Machine

/-! ### POLL, the operation -/

/-- Settles O7: the response is all that changes (R101). -/
theorem pollWithoutBytesAnswersNoData : Obligations.PollWithoutBytesAnswersNoData :=
  fun s hq => ⟨[], exec_poll_empty s hq⟩

/-- Settles O8: the drain empties the transport and reads no frame (R103). -/
theorem pollShortOfAFrameAnswersPartial : Obligations.PollShortOfAFrameAnswersPartial :=
  fun s hq hshort => ⟨_, exec_poll_short s hq hshort, rfl, rfl, rfl, rfl, rfl, rfl, rfl, rfl, rfl⟩

/-- The frame buffer once a POLL has read a frame: the sampled bytes below offset 24 (R104), the old ones above. -/
theorem acquire_settleAndSample_read {s : State} (hw : s.fbuf.wf = true) (hlen : 24 ≤ (sampled s).length) (a : Nat) :
    (acquire (settleAndSample s)).fbuf.read a = if a < 24 then frameAt (sampled s) a else s.fbuf.read a :=
  acquire_read (settleAndSample s) hw hlen a

theorem acquire_settleAndSample_read_of_lt {s : State} (hw : s.fbuf.wf = true) (hlen : 24 ≤ (sampled s).length)
    (a : Nat) (ha : a < 24) : (acquire (settleAndSample s)).fbuf.read a = frameAt (sampled s) a := by
  rw [acquire_settleAndSample_read hw hlen, if_pos ha]

/-- Settles O9: the first of the two tests fails, after the frame was read (R105). -/
theorem pollWithWrongSentinelAnswersSync : Obligations.PollWithWrongSentinelAnswersSync := by
  intro s hw hq hlen hsync
  have hexec := exec_poll_frame s hw hq hlen
  rw [if_neg hsync] at hexec
  exact ⟨_, hexec, rfl, acquire_settleAndSample_read_of_lt hw hlen, rfl, rfl, rfl, rfl, rfl, rfl, rfl⟩

/-- Settles O10: the second test fails, and nothing is thrown away (R106, R108). -/
theorem pollWithWrongChecksumAnswersChksum : Obligations.PollWithWrongChecksumAnswersChksum := by
  intro s hw hq hlen hsync hsum
  have hexec := exec_poll_frame s hw hq hlen
  rw [if_pos hsync, if_neg hsum] at hexec
  exact ⟨_, hexec, rfl, acquire_settleAndSample_read_of_lt hw hlen, rfl, rfl, rfl, rfl, rfl, rfl, rfl⟩

/-- Settles O11: both tests pass, and the frame in the buffer is committed (R107). -/
theorem pollWithValidFrameCommits : Obligations.PollWithValidFrameCommits := by
  intro s hw hq ⟨hlen, hsync, hsum⟩
  have hexec := exec_poll_frame s hw hq hlen
  rw [if_pos hsync, if_pos hsum] at hexec
  exact ⟨_, hexec, rfl, acquire_settleAndSample_read_of_lt hw hlen, rfl, rfl, rfl, rfl, rfl, rfl, rfl⟩

/-- The validation of a frame reads the frame buffer and does not write it. -/
@[simp] theorem validateAndCommit_fbuf (s : State) : (validateAndCommit s).fbuf = s.fbuf := by
  unfold validateAndCommit
  split_ifs <;> rfl

@[simp] theorem validateAndCommit_arrivals (s : State) : (validateAndCommit s).arrivals = s.arrivals := by
  unfold validateAndCommit
  split_ifs <;> rfl

/-- A POLL uses up its arrivals, and the only bytes it writes are those of a frame that it reads (R100, R104). -/
theorem exec_poll_arrivals_fbuf {s t : State} (ht : exec .poll s = .next t) :
    t.arrivals = [] ∧
    (s.q = [] ∨ (sampled s).length < 24 → t.fbuf = s.fbuf) ∧
    (s.q ≠ [] → 24 ≤ (sampled s).length → t.fbuf = (acquire (settleAndSample s)).fbuf) := by
  by_cases hq : s.q = []
  · obtain rfl := Host.Outcome.next.inj ((exec_poll_empty s hq).symm.trans ht)
    exact ⟨rfl, fun _ => rfl, fun hne => absurd hq hne⟩
  by_cases hlen : 24 ≤ (sampled s).length
  · obtain rfl := Host.Outcome.next.inj ((exec_poll_read s hq hlen).symm.trans ht)
    exact ⟨validateAndCommit_arrivals _, fun hno => absurd hno (by simp [hq, hlen]),
      fun _ _ => validateAndCommit_fbuf _⟩
  · obtain rfl := Host.Outcome.next.inj ((exec_poll_short s hq (Nat.lt_of_not_le hlen)).symm.trans ht)
    exact ⟨rfl, fun _ => rfl, fun _ h => absurd h hlen⟩

/-- A POLL keeps the canonical form of the frame buffer. -/
theorem exec_poll_keeps_wf {s t : State} (hw : s.fbuf.wf = true) (ht : exec .poll s = .next t) :
    t.fbuf.wf = true := by
  obtain ⟨u, p, hu, -, -, -, -, -, -, -, -, hfbuf, -⟩ := exec_poll_cases s
  obtain rfl := Host.Outcome.next.inj (hu.symm.trans ht)
  obtain hsame | ⟨bs, hlen, hwritten⟩ := hfbuf
  · exact hsame ▸ hw
  · exact hwritten ▸ Memory.wf_writeFrom bs s.fbuf 0 hw (by simpa using hlen)

/-- Settles O13: the fields from what a POLL can do, the frame buffer from whether it reads a frame. -/
theorem pollFrame : Obligations.PollFrame := by
  intro s t hw ht
  obtain ⟨harrivals, hkept, hread⟩ := exec_poll_arrivals_fbuf ht
  have hwt := exec_poll_keeps_wf hw ht
  obtain ⟨u, p, hu, hkv, hki, -, -, -, -, hinputs, hdraws, -, -⟩ := exec_poll_cases s
  obtain rfl := Host.Outcome.next.inj (hu.symm.trans ht)
  refine ⟨hkv, hki, hinputs, hdraws, harrivals, hwt, fun hno a => ?noFrame, fun hq hlen a => ?frame⟩
  case noFrame => rw [hkept hno]
  case frame => rw [hread hq hlen, acquire_settleAndSample_read hw hlen]

/-! ### The count of bytes -/

/-- Settles O53: 24 and 0 both lie below the value where the count saturates. -/
theorem saturatedCountDecidesAsTheLength : Obligations.SaturatedCountDecidesAsTheLength :=
  fun s => ⟨by simp [rxAvail], rxAvail_lt_frameLen s, rxAvail_eq_zero s⟩

/-! ### The state machine, cycle by cycle -/

/-- R111: IDLE without an offer. -/
theorem tickIdle_of_no_offer {c : CycleIn} (hc : c.cmdValid = false) (s : State) : tickIdle c s = .next s :=
  if_neg (by simp [hc])

/-- R111: IDLE with an offer, ready. -/
theorem tickIdle_of_offer {c : CycleIn} {s : State} (hc : c.cmdValid = true) (hb : s.busy = false) :
    tickIdle c s = tickAccept c.cmd s :=
  if_pos (by simp [hc, hb])

/-- R111: a `POLL` that finds no byte is answered at once. -/
theorem tickAccept_poll_of_empty {cmd : Cmd} {s : State} (hop : cmd.op = 0) (hq : s.q = []) :
    tickAccept cmd s = .next (respond .nodata .empty s) := by
  rw [tickAccept, if_pos hop, if_pos ((rxAvail_eq_zero s).2 hq)]

/-- R111: a `POLL` that finds a byte starts the settle wait. -/
theorem tickAccept_poll_of_bytes {cmd : Cmd} {s : State} (hop : cmd.op = 0) (hq : s.q ≠ []) :
    tickAccept cmd s = .next { s with fsm := .settle, settleCnt := Config.settleCycles, busy := true } := by
  rw [tickAccept, if_pos hop, if_neg (mt (rxAvail_eq_zero s).1 hq)]

/-- R111: any other command is executed (log 11). -/
theorem tickAccept_of_op_ne {cmd : Cmd} (hop : cmd.op ≠ 0) (s : State) :
    tickAccept cmd s = exec (decodeCmd cmd) s :=
  if_neg hop

/-- Settles O46: IDLE by what is offered, on the state that the edge sees. -/
theorem idleCycle : Obligations.IdleCycle := by
  intro s c hf hb hr
  rw [tick_idle c s hr hf]
  refine ⟨fun hc => ?noOffer, fun hc hop hq => ?pollEmpty, fun hc hop hq => ?pollBytes, fun hc hop => ?other⟩
  case noOffer => exact tickIdle_of_no_offer hc _
  all_goals rw [tickIdle_of_offer (s := atEdge c s) hc hb]
  case pollEmpty =>
    rw [tickAccept_poll_of_empty (s := atEdge c s) hop hq, ← hq, respond, ← hb]
    rfl
  case pollBytes => exact tickAccept_poll_of_bytes (s := atEdge c s) hop hq
  case other => exact tickAccept_of_op_ne hop _

/-- R113: SAMPLE, by the length of the queue. -/
theorem tickSample_eq (s : State) :
    tickSample s = if s.q.length < 24 then { s with nSample := rxAvail s, pendStatus := .partialFrame, fsm := .drain }
      else { s with nSample := rxAvail s, byteIdx := 0, csumAcc := 0, fsm := .read } := by
  simp only [tickSample, rxAvail_lt_frameLen]

/-- Settles O47: both clauses on the state that the edge sees, SAMPLE by the length of the queue. -/
theorem settleAndSampleCycles : Obligations.SettleAndSampleCycles := by
  rintro s _ c hr rfl
  refine ⟨fun hf => tick_settle c s hr hf, fun hf => ?_⟩
  rw [tick_sample c s hr hf, tickSample_eq]
  rfl

/-- One step of the incremental checksum, as a number (R114). -/
theorem csAdd_toNat (acc : Byte) (i : Nat) (b : Byte) :
    (csAdd acc i b).toNat = if 2 ≤ i ∧ i ≤ 22 then (acc.toNat + b.toNat) % 256 else acc.toNat := by
  unfold csAdd
  split_ifs
  · exact BitVec.toNat_add acc b
  · rfl

/-- Settles O48: the cycle is the pop of the oldest byte. -/
theorem readCycle : Obligations.ReadCycle := by
  intro s c b rest hf hr hq hidx
  have htick : tick c s = .next (readByte b rest (atEdge c s)) := by
    rw [tick_read c s hr hf, tickRead_cons (atEdge c s) b rest hq (Nat.lt_succ_of_le hidx)]
  have hnext : (s.byteIdx + 1).toNat = s.byteIdx.toNat + 1 := by bv_omega
  exact ⟨_, htick, rfl, rfl, csAdd_toNat _ _ _, hnext, rfl, rfl, rfl, rfl, rfl, rfl, rfl⟩

/-- R118: DRAIN, by the queue. -/
theorem tickDrain_eq (s : State) :
    tickDrain s = if s.q = [] then pollEnds s.pendStatus s else { s with q := s.q.tail } := by
  simp only [tickDrain, rxAvail_eq_zero]

/-- Settles O49: each clause on the state that the edge sees. -/
theorem validateCommitAndDrainCycles : Obligations.ValidateCommitAndDrainCycles := by
  rintro s _ c hr rfl
  refine ⟨fun hf => ?vsync, fun hf => ?vsum, tick_commit c s hr, fun hf => ?drain⟩
  case vsync =>
    rw [tick_vsync c s hr hf, ite_not]
    rfl
  case vsum =>
    rw [tick_vsum c s hr hf, ite_not]
    rfl
  case drain =>
    rw [tick_drain c s hr hf, tickDrain_eq]
    rfl

/-! ### The transition graph -/

/-- A command that is executed in IDLE leaves the state machine there. -/
theorem exec_keeps_fsm {i : Instr} (hi : i ≠ .poll) {s t : State} (ht : exec i s = .next t) : t.fsm = s.fsm := by
  obtain ⟨kv, ki, p, hu, -⟩ := exec_of_ne_poll i hi s
  obtain rfl := Host.Outcome.next.inj (hu.symm.trans ht)
  rfl

/-- IDLE is left for SETTLE alone (R111). -/
theorem tickIdle_fsm {c : CycleIn} {s t : State} (ht : tickIdle c s = .next t) :
    t.fsm = s.fsm ∨ t.fsm = .settle := by
  unfold tickIdle tickAccept at ht
  split_ifs at ht with hoffer hpoll hempty
  · cases ht; exact .inl rfl
  · cases ht; exact .inr rfl
  · exact .inl (exec_keeps_fsm (decodeCmd_ne_poll c.cmd hpoll) ht)
  · cases ht; exact .inl rfl

theorem tickSettle_fsm (s : State) : (tickSettle s).fsm = if s.settleCnt = 0 then .sample else s.fsm :=
  apply_ite State.fsm _ _ _

theorem tickDrain_fsm (s : State) : (tickDrain s).fsm = if rxAvail s = 0 then .idle else s.fsm :=
  apply_ite State.fsm _ _ _

/-- An edge without `rst` follows the graph of R119. -/
theorem tickFsm_follows_graph {c : CycleIn} {s t : State} (ht : tickFsm c s = .next t) :
    fsmEdge s.fsm t.fsm = true := by
  cases hf : s.fsm <;> rw [tickFsm, hf] at ht
  case idle =>
    obtain h | h := tickIdle_fsm ht
    · rw [h, hf]; rfl
    · rw [h]; rfl
  case read =>
    obtain ⟨b, rest, -, rfl⟩ := tickRead_next s t ht
    rw [readByte_fsm]
    split_ifs <;> rfl
  all_goals cases ht
  case settle => rw [tickSettle_fsm, hf]; split_ifs <;> rfl
  case sample => unfold tickSample; split_ifs <;> rfl
  case vsync => unfold tickVsync; split_ifs <;> rfl
  case vsum => unfold tickVsum; split_ifs <;> rfl
  case commit => rfl
  case drain => rw [tickDrain_fsm, hf]; split_ifs <;> rfl

/-- Settles O50: `rst` overrides every transition (R110), and any other edge follows the graph. -/
theorem fsmFollowsTheTransitionGraph : Obligations.FsmFollowsTheTransitionGraph := by
  intro s t c ht
  cases hr : c.rst with
  | true =>
    rw [tick_reset c s hr] at ht
    cases ht
    rfl
  | false =>
    rw [tick_run c s hr] at ht
    exact tickFsm_follows_graph (s := atEdge c s) ht

end Sys2Proof.Machine

end

section
/-! PROOFS. 40_frame_sync_fsm.md: the cycles of the state machine carry out the atomic `POLL` (O57), and the bytes that
arrive after its sample point stay in the transport (O58). Every stage of a POLL is `pollIn f w`, where `w` is the state
that the atomic operation has at that point and `f` is the state of the machine. -/

namespace Sys2Proof.Machine

/-! ### A POLL in progress -/

/-- `w` with a POLL in progress, the state machine in `f`: busy, and no pulse on the ports. -/
def pollIn (f : FsmState) (w : State) : State := { w with fsm := f, busy := true, rsp := none, diag := none }

/-- The state from which the atomic POLL answers, when `first` arrives in the acceptance cycle and `settle` in the
cycles from then to SAMPLE. -/
def atomicStart (s : State) (first : List Byte) (settle : List (List Byte)) : State :=
  { s with q := s.q ++ first, arrivals := settle.flatten }

@[simp] theorem feed_nil (s : State) : feed [] s = s := by simp [feed]

theorem feed_feed (as bs : List Byte) (s : State) : feed bs (feed as s) = feed (as ++ bs) s := by simp [feed]

/-! ### From the acceptance to the end of SAMPLE -/

/-- R111: a POLL that finds a byte is accepted. -/
theorem tick_offer_poll {s : State} {cmd : Cmd} {first : List Byte} (hf : s.fsm = .idle) (hb : s.busy = false)
    (hop : cmd.op = 0) (hq : s.q ++ first ≠ []) :
    tick (CycleIn.offer cmd first) s =
      .next (pollIn .settle { feed first s with settleCnt := Config.settleCycles }) :=
  calc tick (CycleIn.offer cmd first) s
    _ = tickIdle (CycleIn.offer cmd first) (atEdge (CycleIn.offer cmd first) s) := tick_idle _ s rfl hf
    _ = tickAccept cmd (atEdge (CycleIn.offer cmd first) s) := tickIdle_of_offer rfl hb
    _ = .next (pollIn .settle { feed first s with settleCnt := Config.settleCycles }) :=
      tickAccept_poll_of_bytes hop hq

/-- R111, R112: the cycles up to SAMPLE, with `waits` arriving in the settle wait and `last` in SAMPLE itself. -/
theorem runCycles_settle_sample {s : State} {cmd : Cmd} {first last : List Byte} {waits : List (List Byte)}
    (hf : s.fsm = .idle) (hb : s.busy = false) (hop : cmd.op = 0) (hq : s.q ++ first ≠ [])
    (hwaits : waits.length = Config.settleCycles + 1) :
    runCycles (CycleIn.offer cmd first :: (waits ++ [last]).map CycleIn.bytes) s =
      .next (tickSample (pollIn .sample { feed (first ++ (waits ++ [last]).flatten) s with settleCnt := 0 })) := by
  have hwait := settle_run _ (pollIn .settle { feed first s with settleCnt := Config.settleCycles }) waits rfl rfl rfl
    rfl hwaits
  rw [runCycles_cons _ _ _ _ (tick_offer_poll hf hb hop hq), List.map_append, runCycles_append _ _ _ _ hwait,
    List.map_singleton, runCycles_cons _ _ _ _ (tick_sample _ _ rfl rfl), runCycles_nil]
  simp [pollIn, atEdge, pulsesFall, feed, CycleIn.bytes]

/-- R111 to R113: a POLL up to the end of SAMPLE, as SAMPLE on what the atomic POLL samples. -/
theorem runCycles_to_sample {s : State} {cmd : Cmd} {first : List Byte} {settle : List (List Byte)}
    (hf : s.fsm = .idle) (hb : s.busy = false) (harrivals : s.arrivals = []) (hop : cmd.op = 0)
    (hq : s.q ++ first ≠ []) (hsettle : settle.length = Config.settleCycles + 2) :
    runCycles (CycleIn.offer cmd first :: settle.map CycleIn.bytes) s =
      .next (tickSample (pollIn .sample (settleAndSample (atomicStart s first settle)))) := by
  obtain rfl | ⟨waits, last, rfl⟩ := List.eq_nil_or_concat' settle
  · simp at hsettle
  · rw [runCycles_settle_sample hf hb hop hq (by simpa using hsettle)]
    simp [tickSample_eq, pollIn, settleAndSample, atomicStart, feed, rxAvail, harrivals]

/-- R113: SAMPLE with fewer than 24 bytes. -/
theorem tickSample_of_short {u : State} (h : (sampled u).length < 24) :
    tickSample (pollIn .sample (settleAndSample u)) =
      pollIn .drain { settleAndSample u with pendStatus := .partialFrame } :=
  (tickSample_eq _).trans (if_pos h)

/-- R113: SAMPLE with a frame's bytes there. -/
theorem tickSample_of_frame {u : State} (h : 24 ≤ (sampled u).length) :
    tickSample (pollIn .sample (settleAndSample u)) =
      pollIn .read { settleAndSample u with byteIdx := 0, csumAcc := 0 } :=
  (tickSample_eq _).trans (if_neg (Nat.not_lt.mpr h))

/-! ### From the end of SAMPLE to the response -/

/-- R114: the 24 cycles of READ acquire the frame; the bytes that arrive in them join the transport. -/
theorem runCycles_read {w : State} {reads : List (List Byte)} (hw : w.fbuf.wf = true) (hq : 24 ≤ w.q.length)
    (hreads : reads.length = 24) :
    runCycles (reads.map CycleIn.bytes) (pollIn .read { w with byteIdx := 0, csumAcc := 0 }) =
      .next (pollIn .vsync (feed reads.flatten (acquire w))) := by
  rw [read_run 23 (pollIn .read { w with byteIdx := 0, csumAcc := 0 }) reads rfl rfl rfl rfl hw rfl hq hreads,
    csUpTo_frame]
  rfl

/-- R118: a drain in which no byte arrives. -/
theorem runCycles_drain (st : Status) (w : State) :
    runCycles (List.replicate (w.q.length + 1) (CycleIn.bytes [])) (pollIn .drain { w with pendStatus := st }) =
      .next (drainAndEnd st w) :=
  drain_run w.q.length (pollIn .drain { w with pendStatus := st }) rfl rfl rfl rfl

/-- R115: the sentinel test passes. -/
theorem tick_vsync_of_sync {w : State} (b : List Byte) (h : syncOk w.fbuf = true) :
    tick (CycleIn.bytes b) (pollIn .vsync w) = .next (pollIn .vsum (feed b w)) :=
  (tick_vsync _ _ rfl rfl).trans (congrArg _ (if_pos (of_decide_eq_true h)))

/-- R115: the sentinel test fails. -/
theorem tick_vsync_of_no_sync {w : State} (b : List Byte) (h : syncOk w.fbuf = false) :
    tick (CycleIn.bytes b) (pollIn .vsync w) = .next (pollIn .drain { feed b w with pendStatus := .sync }) :=
  (tick_vsync _ _ rfl rfl).trans (congrArg _ (if_neg (of_decide_eq_false h)))

/-- R116: the checksum test passes. -/
theorem tick_vsum_of_sum {w : State} (b : List Byte) (hacc : w.csumAcc = cs w.fbuf) (h : sumOk w.fbuf = true) :
    tick (CycleIn.bytes b) (pollIn .vsum w) = .next (pollIn .commit (feed b w)) :=
  (tick_vsum _ _ rfl rfl).trans (congrArg _ (if_pos (hacc.trans (of_decide_eq_true h))))

/-- R116: the checksum test fails. -/
theorem tick_vsum_of_no_sum {w : State} (b : List Byte) (hacc : w.csumAcc = cs w.fbuf) (h : sumOk w.fbuf = false) :
    tick (CycleIn.bytes b) (pollIn .vsum w) = .next (feed b (pollEnds .chksum w)) :=
  (tick_vsum _ _ rfl rfl).trans (congrArg _ (if_neg (fun he => of_decide_eq_false h (hacc.symm.trans he))))

/-- R117: the commit. -/
theorem tick_commit_pollIn (b : List Byte) (w : State) :
    tick (CycleIn.bytes b) (pollIn .commit w) =
      .next (feed b (pollEnds .ok { w with latch := commit w.fbuf w.latch })) :=
  tick_commit _ _ rfl rfl

theorem validateAndCommit_of_valid {w : State} (hsync : syncOk w.fbuf = true) (hsum : sumOk w.fbuf = true) :
    validateAndCommit w = pollEnds .ok { w with latch := commit w.fbuf w.latch } := by
  rw [validateAndCommit, if_pos hsync, if_pos hsum]

theorem validateAndCommit_of_no_sum {w : State} (hsync : syncOk w.fbuf = true) (hsum : sumOk w.fbuf = false) :
    validateAndCommit w = pollEnds .chksum w := by
  rw [validateAndCommit, if_pos hsync, if_neg (by simp [hsum])]

theorem validateAndCommit_of_no_sync {w : State} (hsync : syncOk w.fbuf = false) :
    validateAndCommit w = drainAndEnd .sync w := by
  rw [validateAndCommit, if_neg (by simp [hsync])]

/-- R115 to R117: a frame with the sentinel is validated in two cycles, and committed in a third if its checksum is
right. Bytes that arrive in them join the transport. -/
theorem runCycles_validate {w : State} {late : List (List Byte)} (hacc : w.csumAcc = cs w.fbuf)
    (hsync : syncOk w.fbuf = true) (hlate : late.length = if sumOk w.fbuf = false then 2 else 3) :
    runCycles (late.map CycleIn.bytes) (pollIn .vsync w) = .next (feed late.flatten (validateAndCommit w)) := by
  cases hsum : sumOk w.fbuf with
  | false =>
    rw [if_pos hsum] at hlate
    obtain ⟨a, b, rfl⟩ := List.length_eq_two.1 hlate
    rw [validateAndCommit_of_no_sum hsync hsum]
    simp only [List.map_cons, List.map_nil]
    rw [runCycles_cons _ _ _ _ (tick_vsync_of_sync a hsync),
      runCycles_cons _ _ _ _ (tick_vsum_of_no_sum (w := feed a w) b hacc hsum)]
    simp [feed, pollEnds, respond]
  | true =>
    rw [if_neg (by simp [hsum])] at hlate
    obtain ⟨a, b, c, rfl⟩ := List.length_eq_three.1 hlate
    rw [validateAndCommit_of_valid hsync hsum]
    simp only [List.map_cons, List.map_nil]
    rw [runCycles_cons _ _ _ _ (tick_vsync_of_sync a hsync),
      runCycles_cons _ _ _ _ (tick_vsum_of_sum (w := feed a w) b hacc hsum),
      runCycles_cons _ _ _ _ (tick_commit_pollIn c _)]
    simp [feed, pollEnds, respond]

/-! ### The cycles that R122 counts -/

theorem pollTailCycles_of_short {q : List Byte} (h : q.length < 24) (F : Memory) :
    pollTailCycles q F = q.length + 1 :=
  if_pos h

theorem pollTailCycles_of_no_sync {q : List Byte} {F : Memory} (h : 24 ≤ q.length) (hsync : syncOk F = false) :
    pollTailCycles q F = 24 + (1 + (q.length - 24 + 1)) := by
  rw [pollTailCycles, if_neg (by omega), if_pos hsync]
  omega

theorem pollTailCycles_of_sync {q : List Byte} {F : Memory} (h : 24 ≤ q.length) (hsync : syncOk F = true) :
    pollTailCycles q F = 24 + if sumOk F = false then 2 else 3 := by
  rw [pollTailCycles, if_neg (by omega), if_neg (by simp [hsync])]
  split_ifs <;> rfl

/-- From the end of SAMPLE, a frame without the sentinel: it is read, and everything behind it is thrown away. -/
theorem runCycles_frame_of_no_sync {w : State} (hw : w.fbuf.wf = true) (hq : 24 ≤ w.q.length)
    (hsync : syncOk (acquire w).fbuf = false) :
    runCycles (List.replicate (pollTailCycles w.q (acquire w).fbuf) (CycleIn.bytes []))
      (pollIn .read { w with byteIdx := 0, csumAcc := 0 }) = .next (drainAndEnd .sync (acquire w)) := by
  have hread := runCycles_read (reads := List.replicate 24 []) hw hq List.length_replicate
  rw [List.map_replicate, List.flatten_replicate_nil, feed_nil] at hread
  have hvsync := tick_vsync_of_no_sync [] hsync
  have hlen : (acquire w).q.length = w.q.length - 24 := List.length_drop
  rw [pollTailCycles_of_no_sync hq hsync, List.replicate_add, runCycles_append _ _ _ _ hread, Nat.add_comm 1,
    List.replicate_succ, runCycles_cons _ _ _ _ hvsync, feed_nil, ← hlen, runCycles_drain]

/-- A frame with the sentinel is validated without a look at the transport. -/
theorem validateAndCommit_feed (bytes : List Byte) {w : State} (hsync : syncOk w.fbuf = true) :
    validateAndCommit (feed bytes w) = feed bytes (validateAndCommit w) := by
  rw [validateAndCommit, validateAndCommit, feed_fbuf, if_pos hsync, if_pos hsync]
  split_ifs <;> rfl

/-- From the end of SAMPLE, a frame with the sentinel, whatever arrives meanwhile. -/
theorem runCycles_frame_of_sync {w : State} {late : List (List Byte)} (hw : w.fbuf.wf = true) (hq : 24 ≤ w.q.length)
    (hsync : syncOk (acquire w).fbuf = true) (hlate : late.length = pollTailCycles w.q (acquire w).fbuf) :
    runCycles (late.map CycleIn.bytes) (pollIn .read { w with byteIdx := 0, csumAcc := 0 }) =
      .next (feed late.flatten (validateAndCommit (acquire w))) := by
  rw [pollTailCycles_of_sync hq hsync] at hlate
  obtain ⟨reads, rest, rfl, hreads⟩ : ∃ reads rest, late = reads ++ rest ∧ reads.length = 24 :=
    ⟨late.take 24, late.drop 24, (List.take_append_drop 24 late).symm, by rw [List.length_take]; omega⟩
  rw [List.length_append, hreads, Nat.add_left_cancel_iff] at hlate
  rw [List.map_append, runCycles_append _ _ _ _ (runCycles_read hw hq hreads),
    runCycles_validate (w := feed reads.flatten (acquire w)) rfl hsync hlate, validateAndCommit_feed _ hsync,
    feed_feed, List.flatten_append]

/-! ### The refinement -/

/-- The sentinel test of the acquired frame is a test on byte 1 of what was sampled. -/
theorem syncOk_acquire_settleAndSample {u : State} (hw : u.fbuf.wf = true) (hlen : 24 ≤ (sampled u).length) :
    syncOk (acquire (settleAndSample u)).fbuf = decide (frameAt (sampled u) 1 = 0x5A) :=
  syncOk_of_reads _ _ (acquire_settleAndSample_read_of_lt hw hlen)

/-- From SAMPLE on, bytes that arrive behind a frame with the sentinel stay in the transport. -/
theorem runCycles_sample_late {u : State} {late : List (List Byte)} (hw : u.fbuf.wf = true)
    (hlen : 24 ≤ (sampled u).length) (hsync : syncOk (acquire (settleAndSample u)).fbuf = true)
    (hlate : late.length = pollTailCycles (sampled u) (acquire (settleAndSample u)).fbuf) :
    runCycles (late.map CycleIn.bytes) (tickSample (pollIn .sample (settleAndSample u))) =
      .next (feed late.flatten (validateAndCommit (acquire (settleAndSample u)))) := by
  rw [tickSample_of_frame hlen]
  exact runCycles_frame_of_sync (w := settleAndSample u) hw hlen hsync hlate

/-- From SAMPLE on, the state machine drains a short queue, reads and drains a frame without the sentinel, or reads and
validates one with it, and each is the branch that the atomic POLL takes. -/
theorem runCycles_sample {u t : State} (hw : u.fbuf.wf = true) (hq : u.q ≠ []) (ht : exec .poll u = .next t) :
    runCycles (List.replicate (pollTailCycles (sampled u) t.fbuf) (CycleIn.bytes []))
      (tickSample (pollIn .sample (settleAndSample u))) = .next t := by
  obtain hshort | hlen := Nat.lt_or_ge (sampled u).length 24
  · obtain rfl := Host.Outcome.next.inj ((exec_poll_short u hq hshort).symm.trans ht)
    rw [tickSample_of_short hshort, pollTailCycles_of_short hshort]
    exact runCycles_drain .partialFrame (settleAndSample u)
  · obtain rfl := Host.Outcome.next.inj ((exec_poll_read u hq hlen).symm.trans ht)
    rw [validateAndCommit_fbuf]
    cases hsync : syncOk (acquire (settleAndSample u)).fbuf with
    | false =>
      rw [tickSample_of_frame hlen, validateAndCommit_of_no_sync hsync]
      exact runCycles_frame_of_no_sync (w := settleAndSample u) hw hlen hsync
    | true =>
      have hrun := runCycles_sample_late (late := List.replicate _ []) hw hlen hsync List.length_replicate
      rwa [List.map_replicate, List.flatten_replicate_nil, feed_nil] at hrun

/-- Settles O57: the cycles up to SAMPLE leave what the atomic POLL samples, and those from there on its answer. -/
theorem stateMachineRefinesPoll : Obligations.StateMachineRefinesPoll := by
  intro s t cmd first settle hw hf hb harrivals hop hq hsettle ht
  rw [runCycles_append _ _ _ _ (runCycles_to_sample hf hb harrivals hop hq hsettle)]
  exact runCycles_sample (u := atomicStart s first settle) hw hq ht

/-- Settles O58: READ, VSYNC, VSUM and COMMIT take nothing from the transport but the frame. -/
theorem lateBytesStayInTheTransport : Obligations.LateBytesStayInTheTransport := by
  intro s t cmd first settle late hw hf hb harrivals hop hq hsettle hlen hsync ht hlate
  obtain rfl := Host.Outcome.next.inj ((exec_poll_read (atomicStart s first settle) hq hlen).symm.trans ht)
  rw [validateAndCommit_fbuf] at hlate
  have hsyncOk := (syncOk_acquire_settleAndSample (u := atomicStart s first settle) hw hlen).trans
    (decide_eq_true hsync)
  rw [runCycles_append _ _ _ _ (runCycles_to_sample hf hb harrivals hop hq hsettle)]
  exact runCycles_sample_late (u := atomicStart s first settle) hw hlen hsyncOk hlate

end Sys2Proof.Machine

end

section
/-! PROOFS. 41_frame_validator_checksum.md: the checksum is the sum of 21 bytes modulo 256 (O23), and the incremental
checksum agrees with it (O24). -/

namespace Sys2Proof.Machine

/-- A byte sum is at most 255 for each of its bytes (41_frame_validator_checksum.md R131). -/
theorem byteSum_le (F : Memory) (o n : Nat) : byteSum F o n ≤ 255 * n := by
  induction n with
  | zero => exact Nat.le_refl 0
  | succ n ih =>
    have hbyte : (F.read (o + n)).toNat ≤ 255 := Nat.le_of_lt_succ (F.read (o + n)).isLt
    rw [byteSum, Nat.mul_succ]
    exact Nat.add_le_add ih hbyte

/-- The checksum as a number. -/
theorem cs_toNat (F : Memory) : (cs F).toNat = byteSum F 2 21 % 256 :=
  BitVec.toNat_ofNat _ 8

/-- Settles O23: the sum over offsets is the byte sum, which `cs` reduces modulo 256 and which is at most 255 a byte. -/
theorem checksumIsTheSumModulo256 : Obligations.ChecksumIsTheSumModulo256 := by
  intro F
  rw [← byteSum_eq_sum]
  exact ⟨cs_toNat F, byteSum_le F 2 21⟩

/-- Settles O24: by induction on the offset, the accumulator is the byte sum so far modulo 256, and the bytes outside
offsets 2 to 22 leave it. -/
theorem incrementalChecksumAgrees : Obligations.IncrementalChecksumAgrees :=
  csUpTo_frame

end Sys2Proof.Machine

end

section
/-! PROOFS. 42_big_endian_register_extractor.md: the fields are big-endian (O25), and the frames the script lines build
pass the tests they should and extract to their fields (O26). -/

namespace Sys2Proof.Machine

/-! ### Big-endian fields -/

/-- R140: the bytes as shifts on widened values. -/
theorem be24_eq_shifts (b0 b1 b2 : Byte) :
    be24 b0 b1 b2 = (b0.setWidth 24 <<< 16 ||| b1.setWidth 24 <<< 8 ||| b2.setWidth 24) :=
  (BitVec.setWidth_eq _).symm.trans BitVec.setWidth_append_append_eq_shiftLeft_setWidth_or

/-- R141: the bytes as shifts on widened values. -/
theorem be16_eq_shifts (b0 b1 : Byte) : be16 b0 b1 = (b0.setWidth 16 <<< 8 ||| b1.setWidth 16) :=
  (BitVec.setWidth_eq _).symm.trans BitVec.setWidth_append_eq_shiftLeft_setWidth_or

/-- A byte appended below a value, as a number. -/
theorem toNat_append_byte {w : Nat} (x : BitVec w) (b : Byte) : (x ++ b).toNat = 256 * x.toNat + b.toNat := by
  rw [BitVec.toNat_append, ← Nat.shiftLeft_add_eq_or_of_lt b.isLt, Nat.shiftLeft_eq, Nat.mul_comm]

theorem be16_toNat (b0 b1 : Byte) : (be16 b0 b1).toNat = 256 * b0.toNat + b1.toNat :=
  toNat_append_byte b0 b1

theorem be24_toNat (b0 b1 b2 : Byte) :
    (be24 b0 b1 b2).toNat = 65536 * b0.toNat + 256 * b1.toNat + b2.toNat := by
  rw [be24, toNat_append_byte, toNat_append_byte]
  omega

/-- Settles O25: an append is a shift and an or, and as a number each appended byte multiplies by 256 and adds. -/
theorem fieldsAreBigEndian : Obligations.FieldsAreBigEndian := fun b0 b1 b2 =>
  ⟨be24_eq_shifts b0 b1 b2, be24_toNat b0 b1 b2, be16_eq_shifts b0 b1, be16_toNat b0 b1⟩

/-! ### A frame around 21 bytes: a state byte, a sentinel byte, the payload and a checksum byte -/

section Built

variable {m : Memory} {bs : List Byte} (st sync c : Byte) (hm : m.wf = true) (hbs : bs.length = 21)

include hbs

/-- Byte `i` of the payload is byte `i + 2` of the frame. -/
theorem frameAt_payload {i : Nat} (hi : i < 21) : frameAt ([st, sync] ++ bs ++ [c]) (i + 2) = bs.getD i 0 :=
  List.getD_append ([st, sync] ++ bs) [c] 0 (i + 2) (by simp [hbs]; omega)

/-- The last byte of the frame is the checksum byte. -/
theorem frameAt_check : frameAt ([st, sync] ++ bs ++ [c]) 23 = c := by
  simp [frameAt, hbs]

/-- The checksum runs over the payload (41_frame_validator_checksum.md R131). -/
theorem frameSum_built : frameSum ([st, sync] ++ bs ++ [c]) = (bs.map BitVec.toNat).sum := by
  rw [frameSum]
  congr 1
  refine List.ext_getElem (by simp [hbs]) fun i hi _ => ?_
  have hi' : i < bs.length := by simpa [hbs] using hi
  rw [List.getElem_map, List.getElem_range, frameAt_payload st sync c hbs (hbs ▸ hi'), List.getD_eq_getElem _ _ hi',
    List.getElem_map]

include hm

theorem read_built {i : Nat} (hi : i < 24) :
    (m.writeFrom 0 ([st, sync] ++ bs ++ [c])).read i = frameAt ([st, sync] ++ bs ++ [c]) i :=
  Memory.read_frame m _ hm (by simp [hbs]) i hi

/-- The sentinel test looks at the sentinel byte alone. -/
theorem syncOk_built : syncOk (m.writeFrom 0 ([st, sync] ++ bs ++ [c])) = decide (sync = sentinel) :=
  syncOk_of_reads _ _ fun _ => read_built st sync c hm hbs

/-- The checksum test compares the checksum byte with the sum of the payload. -/
theorem sumOk_built : sumOk (m.writeFrom 0 ([st, sync] ++ bs ++ [c])) = decide (payloadSum bs = c) := by
  rw [sumOk_of_reads _ _ fun _ => read_built st sync c hm hbs, frameSum_built st sync c hbs,
    frameAt_check st sync c hbs, decide_eq_decide, payloadSum, ← BitVec.toNat_inj, BitVec.toNat_ofNat]

end Built

/-! ### The frames of the script lines (30_encoding.md R90) -/

theorem FrameFields.payload_length (f : FrameFields) : f.payload.length = 21 := rfl

/-- A 3-byte field of a buffer that holds these bytes. -/
theorem field24_of_reads {F : Memory} {bs : List Byte} (h : ∀ i, i < 24 → F.read i = frameAt bs i) {o : Nat}
    (ho : o + 2 < 24) : field24 F o = be24 (frameAt bs o) (frameAt bs (o + 1)) (frameAt bs (o + 2)) := by
  rw [field24, h o (by omega), h (o + 1) (by omega), h (o + 2) ho]

/-- A 2-byte field of a buffer that holds these bytes. -/
theorem field16_of_reads {F : Memory} {bs : List Byte} (h : ∀ i, i < 24 → F.read i = frameAt bs i) {o : Nat}
    (ho : o + 1 < 24) : field16 F o = be16 (frameAt bs o) (frameAt bs (o + 1)) := by
  rw [field16, h o (by omega), h (o + 1) ho]

/-- R145: extraction of a buffer that holds a built frame gives back the fields. -/
theorem extract_of_reads_frame {F : Memory} (f : FrameFields) (h : ∀ i, i < 24 → F.read i = frameAt f.frame i)
    (hsum : sumOk F = true) :
    extract F =
      { state := f.st, check := sentinel, vp := f.vp, vr := f.vr, ip := f.ip, ir := f.ir, pp := f.pp, pr := f.pr,
        flags := f.fl, pfOvf := f.fl.getLsbD 7, vUpd := f.fl.getLsbD 6, iUpd := f.fl.getLsbD 5,
        pUpd := f.fl.getLsbD 4, pf := f.pf, cs := cs F } := by
  have hflags : F.read flagsPos = f.fl := h 20 (by decide)
  have hvp : field24 F 2 = f.vp := (field24_of_reads h (by decide)).trans (be24_of_bytes f.vp)
  have hvr : field24 F 5 = f.vr := (field24_of_reads h (by decide)).trans (be24_of_bytes f.vr)
  have hip : field24 F 8 = f.ip := (field24_of_reads h (by decide)).trans (be24_of_bytes f.ip)
  have hir : field24 F 11 = f.ir := (field24_of_reads h (by decide)).trans (be24_of_bytes f.ir)
  have hpp : field24 F 14 = f.pp := (field24_of_reads h (by decide)).trans (be24_of_bytes f.pp)
  have hpr : field24 F 17 = f.pr := (field24_of_reads h (by decide)).trans (be24_of_bytes f.pr)
  have hpf : field16 F 21 = f.pf := (field16_of_reads h (by decide)).trans (be16_of_bytes f.pf)
  have hcs : F.read csPos = cs F := (of_decide_eq_true hsum).symm
  rw [extract, pfOvfBit, vUpdBit, iUpdBit, pUpdBit, hflags, hvp, hvr, hip, hir, hpp, hpr, hpf, hcs, h 0 (by decide),
    h 1 (by decide)]
  rfl

/-- Settles O26: the three lines build one frame shape, whose tests compare its sentinel byte with the sentinel and its
checksum byte with the payload's sum. -/
theorem builtFramesExtractToTheirFields : Obligations.BuiltFramesExtractToTheirFields := by
  intro f m hm
  have hsync (sync c : Byte) := syncOk_built f.st sync c hm f.payload_length
  have hsum (sync c : Byte) := sumOk_built f.st sync c hm f.payload_length
  have hframe : sumOk (m.writeFrom 0 f.frame) = true := (hsum _ _).trans (decide_eq_true rfl)
  have hne : payloadSum f.payload ≠ payloadSum f.payload + 1 := by simp
  exact ⟨(hsync _ _).trans (decide_eq_true rfl), hframe,
    extract_of_reads_frame f (Memory.read_frame m _ hm rfl) hframe,
    (hsync _ _).trans (decide_eq_true rfl), (hsum _ _).trans (decide_eq_false hne),
    (hsync _ _).trans (decide_eq_false (by decide)), (hsum _ _).trans (decide_eq_true rfl)⟩

end Sys2Proof.Machine

end

section
/-! PROOFS. 43_telemetry_register_latch.md: a step writes the latch only by a reset edge or by a commit (O17, O18), what a
commit loads (O14 to O16), and the two commands that read it and the frame buffer (O19, O20). -/

namespace Sys2Proof.Machine

/-! ### Who writes the latch -/

/-- From `s` to `t` the frame in the buffer is committed and the response is OK. The tests have a premise because the
state COMMIT does not make them again: there that the frame passed is what `fsmInv` says of the start. -/
structure Commits (s t : State) : Prop where
  latch : t.latch = commit t.fbuf s.latch
  tests : fsmInv s → syncOk t.fbuf = true ∧ sumOk t.fbuf = true
  rsp : t.rsp = some { status := .ok, result := .empty }

/-- A commit seen from an earlier state with the same latch. -/
theorem Commits.of_start {s u t : State} (h : Commits u t) (hlatch : u.latch = s.latch) (hfsm : fsmInv s → fsmInv u) :
    Commits s t where
  latch := hlatch ▸ h.latch
  tests := fun hs => h.tests (hfsm hs)
  rsp := h.rsp

/-- R158: no command but `POLL` writes the latch. -/
theorem exec_keeps_latch {i : Instr} (hi : i ≠ .poll) {s t : State} (ht : exec i s = .next t) : t.latch = s.latch := by
  obtain ⟨kv, ki, p, hu, -⟩ := exec_of_ne_poll i hi s
  obtain rfl := Host.Outcome.next.inj (hu.symm.trans ht)
  rfl

/-- `POLL` keeps the latch, or it commits. -/
theorem exec_poll_writes_latch {s t : State} (ht : exec .poll s = .next t) : t.latch = s.latch ∨ Commits s t := by
  obtain ⟨u, p, hu, -, -, hrsp, -, -, -, -, -, -, hlatch⟩ := exec_poll_cases s
  obtain rfl := Host.Outcome.next.inj (hu.symm.trans ht)
  exact hlatch.imp_right fun ⟨hcommit, hsync, hsum, hp⟩ => ⟨hcommit, fun _ => ⟨hsync, hsum⟩, hp ▸ hrsp⟩

/-- A command as it is decoded: only opcode 0 commits. -/
theorem exec_decodeCmd_writes_latch {cmd : Cmd} {s t : State} (ht : exec (decodeCmd cmd) s = .next t) :
    t.latch = s.latch ∨ (Commits s t ∧ cmd.op = 0) := by
  by_cases hop : cmd.op = 0
  · have hpoll : decodeCmd cmd = .poll := by rw [decodeCmd, hop]; rfl
    exact (exec_poll_writes_latch (hpoll ▸ ht)).imp_right (⟨·, hop⟩)
  · exact .inl (exec_keeps_latch (decodeCmd_ne_poll cmd hop) ht)

/-- IDLE keeps the latch: the `POLL` that it accepts only starts (R111). -/
theorem tickIdle_keeps_latch {c : CycleIn} {s t : State} (ht : tickIdle c s = .next t) : t.latch = s.latch := by
  unfold tickIdle tickAccept at ht
  split_ifs at ht with hoffer hpoll hempty
  · cases ht; rfl
  · cases ht; rfl
  · exact exec_keeps_latch (decodeCmd_ne_poll c.cmd hpoll) ht
  · cases ht; rfl

/-- R117: COMMIT commits the frame whose tests lie behind it. -/
theorem tickCommit_commits {s : State} (hf : s.fsm = .commit) : Commits s (tickCommit s) where
  latch := rfl
  tests := (fsmInv_commit hf).1
  rsp := rfl

/-- An edge without `rst` keeps the latch in every state of the machine but COMMIT. -/
theorem tickFsm_writes_latch {c : CycleIn} {s t : State} (ht : tickFsm c s = .next t) :
    t.latch = s.latch ∨ (Commits s t ∧ s.fsm = .commit) := by
  cases hf : s.fsm <;> rw [tickFsm, hf] at ht
  case idle => exact .inl (tickIdle_keeps_latch ht)
  case read =>
    obtain ⟨b, rest, -, rfl⟩ := tickRead_next s t ht
    exact .inl rfl
  all_goals cases ht
  case commit => exact .inr ⟨tickCommit_commits hf, rfl⟩
  all_goals left
  case settle => unfold tickSettle; split_ifs <;> rfl
  case sample => unfold tickSample; split_ifs <;> rfl
  case vsync => unfold tickVsync; split_ifs <;> rfl
  case vsum => unfold tickVsum; split_ifs <;> rfl
  case drain => unfold tickDrain; split_ifs <;> rfl

/-- A clock cycle without `rst`. -/
theorem tick_run_writes_latch {c : CycleIn} (hr : c.rst = false) {s t : State} (ht : tick c s = .next t) :
    t.latch = s.latch ∨ (Commits s t ∧ s.fsm = .commit) := by
  rw [tick_run c s hr] at ht
  exact (tickFsm_writes_latch ht).imp_right fun ⟨hcommits, hf⟩ =>
    ⟨hcommits.of_start rfl (fsmInv_feed c.arrivals s), hf⟩

/-- Whatever the state, a step keeps the latch, or is a reset edge, or commits. -/
theorem step_writes_latch {s t : State} (ht : step s = .next t) :
    t.latch = s.latch ∨
    ((∃ u, t = resetEdge u) ∧ ∃ rest, s.inputs = .reset :: rest ∨ ∃ c, s.inputs = .clock c :: rest ∧ c.rst = true) ∨
    (Commits s t ∧ (s.fsm = .commit ∨ ∃ cmd arrivals rest, s.inputs = .command cmd arrivals :: rest ∧ cmd.op = 0)) := by
  obtain ⟨-, hs⟩ | ⟨rest, hi, hs⟩ | ⟨bytes, rest, -, hs⟩ | ⟨cmd, arrivals, rest, hi, -, hs⟩ |
    ⟨cmd, arrivals, rest, -, -, hs⟩ | ⟨c, rest, hi, hs⟩ := step_cases s <;> rw [hs] at ht
  · exact (tick_run_writes_latch rfl ht).imp_right fun ⟨hcommits, hf⟩ => .inr ⟨hcommits, .inl hf⟩
  · exact .inr (.inl ⟨⟨_, (Host.Outcome.next.inj ht).symm⟩, rest, .inl hi⟩)
  · cases ht
    exact .inl rfl
  · exact (exec_decodeCmd_writes_latch ht).imp_right fun ⟨hcommits, hop⟩ =>
      .inr ⟨hcommits.of_start rfl id, .inr ⟨cmd, arrivals, rest, hi, hop⟩⟩
  · exact (tick_run_writes_latch rfl ht).imp_right fun ⟨hcommits, hf⟩ => .inr ⟨hcommits, .inl hf⟩
  · cases hr : c.rst with
    | true =>
      rw [tick_reset c _ hr] at ht
      exact .inr (.inl ⟨⟨_, (Host.Outcome.next.inj ht).symm⟩, rest, .inr ⟨c, hi, hr⟩⟩)
    | false =>
      exact (tick_run_writes_latch hr ht).imp_right fun ⟨hcommits, hf⟩ => .inr ⟨hcommits.of_start rfl id, .inl hf⟩

/-- Settles O17: the invariant says that the state COMMIT is reached with both tests passed. -/
theorem latchWrittenOnlyByCommitAndReset : Obligations.LatchWrittenOnlyByCommitAndReset := by
  intro s t h ht
  obtain hkept | ⟨⟨u, rfl⟩, hmove⟩ | ⟨hcommits, hby⟩ := step_writes_latch ht
  · exact .inl hkept
  · exact .inr (.inl ⟨rfl, rfl, rfl, hmove⟩)
  · obtain ⟨hsync, hsum⟩ := hcommits.tests h.fsm
    exact .inr (.inr ⟨hcommits.latch, hsync, hsum, hcommits.rsp, hby⟩)

/-- Settles O18: a commit sets the flag, and only a reset edge clears it. -/
theorem successFlagFallsOnlyOnReset : Obligations.SuccessFlagFallsOnlyOnReset := by
  intro s t ht hok hnoReset hnoRst
  obtain hkept | ⟨-, rest, hreset | ⟨c, hclock, hrst⟩⟩ | ⟨hcommits, -⟩ := step_writes_latch ht
  · rw [hkept, hok]
  · exact absurd hreset (hnoReset rest)
  · rw [hnoRst c rest hclock] at hrst
    cases hrst
  · rw [hcommits.latch, commit]

/-! ### What a commit loads -/

section CommitOfReads

variable {F : Memory} {bs : List Byte} (h : ∀ i, i < 24 → F.read i = frameAt bs i) (L : Latch)

include h

/-- R151: the parameters are loaded whatever the flags say. -/
theorem commit_parameters_of_reads :
    (commit F L).vp = be24 (frameAt bs 2) (frameAt bs 3) (frameAt bs 4) ∧
    (commit F L).ip = be24 (frameAt bs 8) (frameAt bs 9) (frameAt bs 10) ∧
    (commit F L).pp = be24 (frameAt bs 14) (frameAt bs 15) (frameAt bs 16) :=
  ⟨field24_of_reads h (by decide), field24_of_reads h (by decide), field24_of_reads h (by decide)⟩

/-- A bit of the flags byte (30_encoding.md R71). -/
theorem flag_of_reads (k : Nat) : (F.read flagsPos).getLsbD k = (frameAt bs 20).getLsbD k :=
  congrArg (BitVec.getLsbD · k) (h 20 (by decide))

/-- R152 to R154: each register goes by its update bit. -/
theorem commit_registers_of_reads :
    (commit F L).vr =
      (if (frameAt bs 20).getLsbD 6 then be24 (frameAt bs 5) (frameAt bs 6) (frameAt bs 7) else L.vr) ∧
    (commit F L).ir =
      (if (frameAt bs 20).getLsbD 5 then be24 (frameAt bs 11) (frameAt bs 12) (frameAt bs 13) else L.ir) ∧
    (commit F L).pr =
      (if (frameAt bs 20).getLsbD 4 then be24 (frameAt bs 17) (frameAt bs 18) (frameAt bs 19) else L.pr) := by
  have hvr : field24 F 5 = _ := field24_of_reads h (by decide)
  have hir : field24 F 11 = _ := field24_of_reads h (by decide)
  have hpr : field24 F 17 = _ := field24_of_reads h (by decide)
  rw [← flag_of_reads h, ← flag_of_reads h, ← flag_of_reads h, ← hvr, ← hir, ← hpr]
  exact ⟨rfl, rfl, rfl⟩

/-- R155: `pf` is loaded, and the counter, 32 bits wide, goes by bit 7. -/
theorem commit_overflow_of_reads :
    (commit F L).pf = be16 (frameAt bs 21) (frameAt bs 22) ∧
    (commit F L).pfOvfCnt.toNat =
      if (frameAt bs 20).getLsbD 7 then (L.pfOvfCnt.toNat + 1) % 2 ^ 32 else L.pfOvfCnt.toNat := by
  refine ⟨field16_of_reads h (by decide), ?_⟩
  have hnext : (L.pfOvfCnt + 1).toNat = (L.pfOvfCnt.toNat + 1) % 2 ^ 32 := BitVec.toNat_add _ _
  rw [← flag_of_reads h, ← hnext]
  exact apply_ite BitVec.toNat _ _ _

end CommitOfReads

/-- A POLL that samples a valid frame commits a buffer that holds that frame (R104, R107). -/
theorem exec_poll_commits_sampled {s : State} (hw : s.fbuf.wf = true) (hq : s.q ≠ []) (hv : ValidFrame (sampled s)) :
    ∃ t F, exec .poll s = .next t ∧ t.latch = commit F s.latch ∧ ∀ i, i < 24 → F.read i = frameAt (sampled s) i := by
  obtain ⟨t, ht, -, hreads, hlatch, -⟩ := pollWithValidFrameCommits s hw hq hv
  exact ⟨t, t.fbuf, ht, hlatch, hreads⟩

/-- Settles O14: what the commit of the sampled frame loads unconditionally. -/
theorem validFrameLoadsParameters : Obligations.ValidFrameLoadsParameters := by
  intro s hw hq hv
  obtain ⟨t, F, ht, hlatch, hreads⟩ := exec_poll_commits_sampled hw hq hv
  exact ⟨t, ht, hlatch ▸ commit_parameters_of_reads hreads s.latch⟩

/-- Settles O15: what the commit of the sampled frame loads by an update bit. -/
theorem registersAreSticky : Obligations.RegistersAreSticky := by
  intro s hw hq hv
  obtain ⟨t, F, ht, hlatch, hreads⟩ := exec_poll_commits_sampled hw hq hv
  exact ⟨t, ht, hlatch ▸ commit_registers_of_reads hreads s.latch⟩

/-- Settles O16: the commit of the sampled frame counts its overflow bit and nothing else. -/
theorem overflowCounterCountsBitSeven : Obligations.OverflowCounterCountsBitSeven := by
  intro s hw hq hv
  obtain ⟨t, F, ht, hlatch, hreads⟩ := exec_poll_commits_sampled hw hq hv
  exact ⟨t, ht, hlatch ▸ commit_overflow_of_reads hreads s.latch⟩

/-! ### The readers of the flag and of the frame buffer -/

/-- Settles O19: OK carries no diagnostic, and `respond` changes nothing but the ports and `busy`. -/
theorem getokReadsTheSuccessFlag : Obligations.GetokReadsTheSuccessFlag :=
  fun _ => rfl

/-- Settles O20: widening a byte to the 48-bit result keeps its value. -/
theorem getfrmReadsOneByte : Obligations.GetfrmReadsOneByte :=
  fun s _ hidx => ⟨_, BitVec.toNat_setWidth_of_le (by decide), exec_getfrm_of_lt (Nat.lt_succ_of_le hidx) s⟩

end Sys2Proof.Machine

end

section
/-! PROOFS. 44_calibration_coefficient_scaler.md: the setters (O27), what each getter answers (O28 to O34), the energy
and the power factor in exact rationals (O35, O36), a register that divides and is 0 (O37), and the commands that only
read (O38, O39). -/

namespace Sys2Proof.Machine

/-! ### The setters -/

/-- Settles O27: `respond` changes nothing but the ports and `busy`. -/
theorem settersStoreTheirNumber : Obligations.SettersStoreTheirNumber :=
  fun _ _ => ⟨rfl, rfl⟩

/-! ### Guarded values

Every value of the scaler is `Div0` under one condition and one number otherwise, so the scaler's arithmetic is a
calculus on pairs of a condition and a number (00_scope.md R10). -/

/-- `Div0` under the condition `c`, and the number `x` otherwise. -/
def guarded (c : Prop) [Decidable c] (x : Num) : Res := if c then .div0 else .val x

section Guarded

variable {c d : Prop} [Decidable c] [Decidable d]

theorem guarded_of_pos (hc : c) (x : Num) : guarded c x = .div0 := if_pos hc

theorem guarded_of_neg (hc : ¬ c) (x : Num) : guarded c x = .val x := if_neg hc

theorem guarded_congr (h : c ↔ d) (x : Num) : guarded c x = guarded d x := if_congr h rfl rfl

theorem guarded_scale (N : Numerics) (a x : Num) : (guarded c a).scale N x = guarded c (N.mul a x) := by
  by_cases hc : c
  · rw [guarded_of_pos hc, guarded_of_pos hc, scale_div0]
  · rw [guarded_of_neg hc, guarded_of_neg hc, scale_val]

theorem guarded_times (N : Numerics) (a b : Num) :
    (guarded c a).times N (guarded d b) = guarded (c ∨ d) (N.mul a b) := by
  by_cases hc : c
  · rw [guarded_of_pos hc, guarded_of_pos (Or.inl hc), times_div0_left]
  by_cases hd : d
  · rw [guarded_of_pos hd, guarded_of_pos (Or.inr hd), times_div0_right]
  · rw [guarded_of_neg hc, guarded_of_neg hd, guarded_of_neg (not_or_intro hc hd), times_val]

/-- A quotient is guarded against its own divisor too. -/
theorem guarded_over (N : Numerics) (a b : Num) :
    (guarded c a).over N (guarded d b) = guarded (c ∨ d ∨ N.isZero b = true) (N.div a b) := by
  by_cases hc : c
  · rw [guarded_of_pos hc, guarded_of_pos (Or.inl hc), over_div0_left]
  by_cases hd : d
  · rw [guarded_of_pos hd, guarded_of_pos (Or.inr (Or.inl hd)), over_div0_right]
  rw [guarded_of_neg hc, guarded_of_neg hd]
  by_cases hz : N.isZero b = true
  · rw [over_of_zero N a b hz, guarded_of_pos (Or.inr (Or.inr hz))]
  · rw [over_of_nonzero N a b (Bool.eq_false_of_not_eq_true hz),
      guarded_of_neg (not_or_intro hc (not_or_intro hd hz))]

/-- A number is a guarded value that nothing guards. -/
theorem val_eq_guarded (x : Num) : Res.val x = guarded False x := rfl

/-- The response to a guarded value: DIV0 with the sentinel and one diagnostic, or OK with the number (R170). -/
theorem respondRes_guarded (x : Num) (s : State) : respondRes (guarded c x) s = if c
    then { s with rsp := some { status := .div0, result := .num (-1) }, diag := some .div0, busy := false }
    else { s with rsp := some { status := .ok, result := .num x }, diag := none, busy := false } := by
  by_cases hc : c
  · rw [guarded_of_pos hc, if_pos hc]
    rfl
  · rw [guarded_of_neg hc, if_neg hc]
    rfl

/-- What a numeric getter answers, from its value as a guarded one. -/
theorem exec_of_guarded {i : Instr} {r : Res} {s : State} {x : Num} (hexec : exec i s = .next (respondRes r s))
    (hr : r = guarded c x) : exec i s = .next (if c
      then { s with rsp := some { status := .div0, result := .num (-1) }, diag := some .div0, busy := false }
      else { s with rsp := some { status := .ok, result := .num x }, diag := none, busy := false }) := by
  rw [hexec, hr, respondRes_guarded]

end Guarded

/-! ### The values of the getters as guarded numbers -/

section Values

variable (N : Numerics) (s : State)

/-- The number of a ratio of two raw registers whose divisor is not 0 (R171). -/
def quotient (p r : Reg24) : Num := N.div (N.ofNat p.toNat) (N.ofNat r.toNat)

/-- The number of the active power where `pr` is not 0 (R179). -/
def activePowerValue : Num := N.mul (N.mul (quotient N s.latch.pp s.latch.pr) s.kv) s.ki

/-- The number of the apparent power where neither `vr` nor `ir` is 0 (R180). -/
def apparentPowerValue : Num :=
  N.mul (N.mul (quotient N s.latch.vp s.latch.vr) s.kv) (N.mul (quotient N s.latch.ip s.latch.ir) s.ki)

/-- The number of the pulses per kWh where neither `pp` nor `kv * ki` is 0 (R184). -/
def pulsesValue : Num :=
  N.mul (N.mul (N.mul (N.div (N.ofNat 1) (N.ofNat s.latch.pp.toNat)) (N.div (N.ofNat 1) (N.mul s.kv s.ki)))
    (N.ofNat c1e9)) (N.ofNat c3600)

theorem ratio_toNat (p r : Reg24) : ratio N p.toNat r.toNat = guarded (r = 0) (quotient N p r) :=
  if_congr (toNat_eq_zero_iff r) rfl rfl

theorem dividerVoltage_eq : dividerVoltage N s = guarded (s.latch.vr = 0) (quotient N s.latch.vp s.latch.vr) :=
  ratio_toNat N _ _

theorem shuntVoltage_eq : shuntVoltage N s = guarded (s.latch.ir = 0) (quotient N s.latch.ip s.latch.ir) :=
  ratio_toNat N _ _

theorem effectiveVoltage_eq :
    effectiveVoltage N s = guarded (s.latch.vr = 0) (N.mul (quotient N s.latch.vp s.latch.vr) s.kv) := by
  rw [effectiveVoltage, dividerVoltage_eq, guarded_scale]

theorem effectiveCurrent_eq :
    effectiveCurrent N s = guarded (s.latch.ir = 0) (N.mul (quotient N s.latch.ip s.latch.ir) s.ki) := by
  rw [effectiveCurrent, shuntVoltage_eq, guarded_scale]

theorem activePower_eq : activePower N s = guarded (s.latch.pr = 0) (activePowerValue N s) := by
  rw [activePower, ratio_toNat, guarded_scale, guarded_scale, activePowerValue]

theorem apparentPower_eq :
    apparentPower N s = guarded (s.latch.vr = 0 ∨ s.latch.ir = 0) (apparentPowerValue N s) := by
  rw [apparentPower, effectiveVoltage_eq, effectiveCurrent_eq, guarded_times, apparentPowerValue]

theorem powerFactor_eq :
    powerFactor N s = guarded
      (s.latch.pr = 0 ∨ s.latch.vr = 0 ∨ s.latch.ir = 0 ∨ N.isZero (apparentPowerValue N s) = true)
      (N.div (activePowerValue N s) (apparentPowerValue N s)) := by
  rw [powerFactor, activePower_eq, apparentPower_eq, guarded_over]
  exact guarded_congr (or_congr_right or_assoc) _

theorem pulsesPerKWh_eq :
    pulsesPerKWh N s = guarded (s.latch.pp = 0 ∨ N.isZero (N.mul s.kv s.ki) = true) (pulsesValue N s) := by
  by_cases hpp : s.latch.pp = 0
  · rw [guarded_of_pos (.inl hpp)]
    exact if_pos hpp
  · exact (if_neg hpp).trans (guarded_congr (or_iff_right hpp) _).symm

theorem energyKWh_eq :
    energyKWh N s = guarded
      (s.latch.pp = 0 ∨ N.isZero (N.mul s.kv s.ki) = true ∨ N.isZero (pulsesValue N s) = true)
      (N.div (N.ofNat (pfProduct s.latch)) (pulsesValue N s)) := by
  rw [energyKWh, pulsesPerKWh_eq, val_eq_guarded, guarded_over]
  exact guarded_congr ((iff_of_eq (false_or _)).trans or_assoc) _

end Values

/-! ### What the getters answer -/

/-- Settles O28: each value is one guarded quotient. -/
theorem ratioGettersAnswer : Obligations.RatioGettersAnswer :=
  fun s => ⟨exec_of_guarded rfl (dividerVoltage_eq _ s), exec_of_guarded rfl (shuntVoltage_eq _ s)⟩

/-- Settles O29: the coefficient joins the number and leaves the guard as it is. -/
theorem scaledRatioGettersAnswer : Obligations.ScaledRatioGettersAnswer :=
  fun s => ⟨exec_of_guarded rfl (effectiveVoltage_eq _ s), exec_of_guarded rfl (effectiveCurrent_eq _ s)⟩

/-- Settles O30: the guard is that of the one ratio. -/
theorem activePowerGetterAnswers : Obligations.ActivePowerGetterAnswers :=
  fun s => exec_of_guarded rfl (activePower_eq _ s)

/-- Settles O31: the guard joins those of the two factors. -/
theorem apparentPowerGetterAnswers : Obligations.ApparentPowerGetterAnswers :=
  fun s => exec_of_guarded rfl (apparentPower_eq _ s)

/-- Settles O32: the guard joins those of both powers and the test on the divisor. -/
theorem powerFactorGetterAnswers : Obligations.PowerFactorGetterAnswers := by
  rintro s _ _ rfl rfl
  exact exec_of_guarded rfl (powerFactor_eq _ s)

/-- Settles O34: the guard joins that of the pulse count and the test on the pulse count itself. -/
theorem energyGetterAnswers : Obligations.EnergyGetterAnswers := by
  rintro s _ _ rfl rfl
  exact exec_of_guarded rfl (energyKWh_eq _ s)

/-- A 32-bit counter times a 16-bit register fits in 48 bits (R183). -/
theorem pfProduct_lt (L : Latch) : pfProduct L < 2 ^ 48 :=
  calc L.pfOvfCnt.toNat * L.pf.toNat
    _ < 2 ^ 32 * 2 ^ 16 := Nat.mul_lt_mul'' L.pfOvfCnt.isLt L.pf.isLt
    _ = 2 ^ 48 := by norm_num

/-- Settles O33: widening `pf` keeps its value, and the product is below 2^48. -/
theorem integerGettersAnswerExactly : Obligations.IntegerGettersAnswerExactly :=
  fun s => ⟨⟨_, BitVec.toNat_setWidth_of_le (by decide), rfl⟩,
    ⟨_, (BitVec.toNat_ofNat _ _).trans (Nat.mod_eq_of_lt (pfProduct_lt s.latch)), rfl⟩⟩

/-! ### In exact rationals -/

/-- A register's number in the domain is 0 exactly where the register is. -/
theorem toNat_cast_eq_zero_iff {w : Nat} (r : BitVec w) : (r.toNat : Rat) = 0 ↔ r = 0 :=
  Nat.cast_eq_zero.trans (toNat_eq_zero_iff r)

theorem exactNumerics_isZero_iff (x : Num) : exactNumerics.isZero x = true ↔ x = 0 := decide_eq_true_iff

theorem quotient_exact (p r : Reg24) : quotient exactNumerics p r = (p.toNat : Rat) / (r.toNat : Rat) := rfl

theorem quotient_exact_eq_zero_iff (p r : Reg24) : quotient exactNumerics p r = 0 ↔ p = 0 ∨ r = 0 := by
  rw [quotient_exact, div_eq_zero_iff, toNat_cast_eq_zero_iff, toNat_cast_eq_zero_iff]

/-- The exact pulse count is `3600000000000 / (pp * kv * ki)`. -/
theorem pulsesValue_exact (s : State) :
    pulsesValue exactNumerics s = 3600000000000 / ((s.latch.pp.toNat : Rat) * (s.kv * s.ki)) := by
  simp only [pulsesValue, exactNumerics_mul, exactNumerics_div, exactNumerics_ofNat, c1e9, c3600]
  push_cast
  ring

/-- The exact energy without its guards. -/
theorem pfProduct_div_pulsesValue_exact (s : State) :
    (pfProduct s.latch : Rat) / pulsesValue exactNumerics s =
      (s.latch.pfOvfCnt.toNat : Rat) * (s.latch.pf.toNat : Rat) * (s.latch.pp.toNat : Rat) * s.kv * s.ki /
        3600000000000 := by
  rw [pulsesValue_exact, pfProduct, Nat.cast_mul, div_div_eq_mul_div]
  ring

/-- Settles O35: where `pp`, `kv` and `ki` are not zero, neither is the pulse count. -/
theorem energyInTheReferenceInstance : Obligations.EnergyInTheReferenceInstance := by
  intro s hpp hkv hki
  have hpp' : (s.latch.pp.toNat : Rat) ≠ 0 := (toNat_cast_eq_zero_iff _).not.mpr hpp
  have hpulses : pulsesValue exactNumerics s ≠ 0 := by
    rw [pulsesValue_exact]
    positivity
  rw [energyKWh_eq, guarded_of_neg, exactNumerics_div, exactNumerics_ofNat, pfProduct_div_pulsesValue_exact]
  rw [exactNumerics_isZero_iff, exactNumerics_isZero_iff]
  exact not_or_intro hpp (not_or_intro (mul_ne_zero hkv hki) hpulses)

/-- The exact apparent power is zero exactly where a register or a coefficient in it is. -/
theorem apparentPowerValue_exact_eq_zero_iff (s : State) :
    apparentPowerValue exactNumerics s = 0 ↔
      ((s.latch.vp = 0 ∨ s.latch.vr = 0) ∨ s.kv = 0) ∨ (s.latch.ip = 0 ∨ s.latch.ir = 0) ∨ s.ki = 0 := by
  simp only [apparentPowerValue, exactNumerics_mul, mul_eq_zero, quotient_exact_eq_zero_iff]

/-- The exact power factor without its guards: the coefficients cancel. -/
theorem activePowerValue_div_apparentPowerValue_exact {s : State} (hkv : s.kv ≠ 0) (hki : s.ki ≠ 0) :
    activePowerValue exactNumerics s / apparentPowerValue exactNumerics s =
      quotient exactNumerics s.latch.pp s.latch.pr /
        (quotient exactNumerics s.latch.vp s.latch.vr * quotient exactNumerics s.latch.ip s.latch.ir) := by
  simp only [activePowerValue, apparentPowerValue, exactNumerics_mul]
  rw [mul_mul_mul_comm, mul_assoc, mul_div_mul_right _ _ (mul_ne_zero hkv hki)]

/-- Settles O36: by the zeros of the exact apparent power. -/
theorem powerFactorInTheReferenceInstance : Obligations.PowerFactorInTheReferenceInstance := by
  intro s
  rw [powerFactor_eq]
  constructor
  · intro hzero
    refine guarded_of_pos ?_ _
    rw [exactNumerics_isZero_iff, apparentPowerValue_exact_eq_zero_iff]
    tauto
  · intro hpr hvr hir hvp hip hkv hki
    rw [guarded_of_neg, exactNumerics_div, activePowerValue_div_apparentPowerValue_exact hkv hki]
    · rfl
    · rw [exactNumerics_isZero_iff, apparentPowerValue_exact_eq_zero_iff]
      tauto

/-! ### A register that divides and is 0 -/

/-- A getter whose guard is met answers DIV0 (R170). -/
theorem exec_of_guard {i : Instr} {r : Res} {s : State} {c : Prop} [Decidable c] {x : Num}
    (hexec : exec i s = .next (respondRes r s)) (hr : r = guarded c x) (hc : c) :
    exec i s = .next { s with
      rsp := some { status := .div0, result := .num (-1) }, diag := some .div0, busy := false } :=
  (exec_of_guarded hexec hr).trans (congrArg _ (if_pos hc))

/-- Settles O37: a register that divides is part of the guard of every getter that depends on it. -/
theorem zeroRegisterReachesEveryDependentGetter : Obligations.ZeroRegisterReachesEveryDependentGetter := by
  intro s i h
  simp only [List.mem_cons, List.not_mem_nil, or_false] at h
  rcases h with ⟨hvr, rfl | rfl | rfl | rfl⟩ | ⟨hir, rfl | rfl | rfl | rfl⟩ | ⟨hpr, rfl | rfl⟩ | ⟨hpp, rfl⟩
  · exact exec_of_guard rfl (dividerVoltage_eq _ s) hvr
  · exact exec_of_guard rfl (effectiveVoltage_eq _ s) hvr
  · exact exec_of_guard rfl (apparentPower_eq _ s) (.inl hvr)
  · exact exec_of_guard rfl (powerFactor_eq _ s) (.inr (.inl hvr))
  · exact exec_of_guard rfl (shuntVoltage_eq _ s) hir
  · exact exec_of_guard rfl (effectiveCurrent_eq _ s) hir
  · exact exec_of_guard rfl (apparentPower_eq _ s) (.inr hir)
  · exact exec_of_guard rfl (powerFactor_eq _ s) (.inr (.inr (.inl hir)))
  · exact exec_of_guard rfl (activePower_eq _ s) hpr
  · exact exec_of_guard rfl (powerFactor_eq _ s) (.inl hpr)
  · exact exec_of_guard rfl (energyKWh_eq _ s) (.inl hpp)

/-! ### The commands that only read -/

/-- Settles O38: a command that is neither `POLL` nor a setter keeps both coefficients. -/
theorem readersLeaveTheBlockUnchanged : Obligations.ReadersLeaveTheBlockUnchanged := by
  intro i s hread
  obtain ⟨kv, ki, p, hexec, hkv, hki⟩ := exec_of_ne_poll i (by rintro rfl; cases hread) s
  obtain rfl : kv = s.kv := by
    by_contra hne
    rw [hkv hne] at hread
    cases hread
  obtain rfl : ki = s.ki := by
    by_contra hne
    rw [hki hne] at hread
    cases hread
  exact ⟨p, hexec⟩

/-- A numeric getter's response replaces the one before it. -/
theorem respondRes_overwrites (r : Res) (s : State) (p : Option Response) (d : Option Diag) (b : Bool) :
    respondRes r { s with rsp := p, diag := d, busy := b } = respondRes r s := by
  cases r <;> rfl

/-- A command that only reads does not read the response ports or `busy`. -/
theorem exec_reader_overwrites {i : Instr} (hread : isReader i = true) (s : State) (p : Option Response)
    (d : Option Diag) (b : Bool) : exec i { s with rsp := p, diag := d, busy := b } = exec i s := by
  cases i
  case poll | setkv | setki => cases hread
  case getpfr | getpfa | getok | getfrm | ill => rfl
  all_goals exact congrArg Host.Outcome.next (respondRes_overwrites _ s p d b)

/-- Settles O39: the first answer changed nothing that the second one is made of. -/
theorem readerIssuedTwiceAnswersTheSame : Obligations.ReaderIssuedTwiceAnswersTheSame := by
  intro i s t hread hst
  obtain ⟨p, hexec⟩ := readersLeaveTheBlockUnchanged i s hread
  obtain rfl := Host.Outcome.next.inj (hexec.symm.trans hst)
  rw [exec_reader_overwrites hread, hexec]

end Sys2Proof.Machine

end

section
/-! PROOFS. 60_exceptions.md: the order of the tests of a `POLL` (O12), and the statuses that each command can return
(O40). -/

namespace Sys2Proof.Machine

/-! ### The order of tests -/

/-- The latch of a `POLL` that commits has parsed a valid frame (R156). -/
@[simp] theorem commit_frameOk (F : Memory) (L : Latch) : (commit F L).frameOk = true := rfl

/-- Settles O12: the tests split the states with a canonical frame buffer into the five outcomes of `POLL` (O7 to O11),
each reached only where every test before its own has passed (R210). -/
theorem pollTestsInOrder : Obligations.PollTestsInOrder := by
  intro s hw
  by_cases hq : s.q = []
  case pos => exact ⟨_, .nodata, exec_poll_empty s hq, rfl, rfl, (if_pos hq).symm, fun _ => rfl, nofun⟩
  rcases Nat.lt_or_ge (sampled s).length 24 with hshort | hlen
  case inl =>
    obtain ⟨t, hexec, -, -, hlatch, -, -, hrsp, hdiag, -⟩ := pollShortOfAFrameAnswersPartial s hq hshort
    exact ⟨t, .partialFrame, hexec, hrsp, hdiag, by rw [if_neg hq, if_pos hshort], fun _ => hlatch, nofun⟩
  have hlen' : ¬ (sampled s).length < 24 := Nat.not_lt.mpr hlen
  by_cases hsync : frameAt (sampled s) 1 = 0x5A
  case neg =>
    obtain ⟨t, hexec, -, -, hlatch, -, -, hrsp, hdiag, -⟩ := pollWithWrongSentinelAnswersSync s hw hq hlen hsync
    exact ⟨t, .sync, hexec, hrsp, hdiag, by rw [if_neg hq, if_neg hlen', if_pos hsync], fun _ => hlatch, nofun⟩
  by_cases hsum : frameSum (sampled s) % 256 = (frameAt (sampled s) 23).toNat
  case neg =>
    obtain ⟨t, hexec, -, -, hlatch, -, -, hrsp, hdiag, -⟩ :=
      pollWithWrongChecksumAnswersChksum s hw hq hlen hsync hsum
    exact ⟨t, .chksum, hexec, hrsp, hdiag,
      by rw [if_neg hq, if_neg hlen', if_neg (not_not_intro hsync), if_pos hsum], fun _ => hlatch, nofun⟩
  case pos =>
    obtain ⟨t, hexec, -, -, hlatch, -, -, hrsp, hdiag, -⟩ := pollWithValidFrameCommits s hw hq ⟨hlen, hsync, hsum⟩
    exact ⟨t, .ok, hexec, hrsp, hdiag,
      by rw [if_neg hq, if_neg hlen', if_neg (not_not_intro hsync), if_neg (not_not_intro hsum)],
      fun hne => absurd rfl hne, fun _ => by rw [hlatch, commit_frameOk]⟩

/-! ### The statuses of each command -/

/-- A command that starts in `s` and ends in `t` ends with `respond`, with a status that it can return, and on the way
there the moves to come and the reset count have not changed. -/
def RespondsFrom (i : Instr) (s t : State) : Prop :=
  ∃ st res u, t = respond st res u ∧ mayAnswer i st = true ∧ u.draws = s.draws ∧ u.inputs = s.inputs

/-- A numeric getter responds OK or DIV0 (R170). -/
theorem respondRes_respondsFrom {i : Instr} (hok : mayAnswer i .ok = true) (hdiv0 : mayAnswer i .div0 = true)
    (r : Res) (s : State) : RespondsFrom i s (respondRes r s) := by
  obtain ⟨x, -, hr⟩ | ⟨-, hr⟩ := respondRes_cases r s
  · exact ⟨.ok, .num x, s, hr, hok, rfl, rfl⟩
  · exact ⟨.div0, .num div0Sentinel, s, hr, hdiv0, rfl, rfl⟩

/-- The end of a `POLL` that read a frame: OK, CHKSUM or SYNC (R105 to R107). -/
theorem validateAndCommit_respondsFrom (s : State) : RespondsFrom .poll s (validateAndCommit s) := by
  unfold validateAndCommit
  split_ifs with hsync hsum
  · exact ⟨.ok, .empty, _, rfl, rfl, rfl, rfl⟩
  · exact ⟨.chksum, .empty, _, rfl, rfl, rfl, rfl⟩
  · exact ⟨.sync, .empty, _, rfl, rfl, rfl, rfl⟩

/-- `POLL` responds NODATA, PARTIAL, or as the frame that it read does (R101, R103). -/
theorem exec_poll_respondsFrom (s : State) : ∃ t, exec .poll s = .next t ∧ RespondsFrom .poll s t := by
  by_cases hq : s.q = []
  · exact ⟨_, exec_poll_empty s hq, .nodata, .empty, _, rfl, rfl, rfl, rfl⟩
  rcases Nat.lt_or_ge (sampled s).length 24 with hlen | hlen
  · exact ⟨_, exec_poll_short s hq hlen, .partialFrame, .empty, _, rfl, rfl, rfl, rfl⟩
  · exact ⟨_, exec_poll_read s hq hlen, validateAndCommit_respondsFrom (acquire (settleAndSample s))⟩

/-- Every command ends with one `respond`, with a status of its own row of R203. -/
theorem exec_respondsFrom (i : Instr) (s : State) : ∃ t, exec i s = .next t ∧ RespondsFrom i s t := by
  cases i
  case poll => exact exec_poll_respondsFrom s
  case setkv | setki => exact ⟨_, rfl, .ok, .empty, _, rfl, rfl, rfl, rfl⟩
  case getveff | getvdiv | getieff | getvsh | getpact | getpapp | getpf | getkwh =>
    exact ⟨_, rfl, respondRes_respondsFrom rfl rfl _ s⟩
  case getpfr | getpfa | getok => exact ⟨_, rfl, .ok, .int _, s, rfl, rfl, rfl, rfl⟩
  case ill => exact ⟨_, rfl, .illegal, .empty, s, rfl, rfl, rfl, rfl⟩
  case getfrm idx =>
    rcases Nat.lt_or_ge idx 24 with hidx | hidx
    · exact ⟨_, exec_getfrm_of_lt hidx s, .ok, .int _, s, rfl, rfl, rfl, rfl⟩
    · exact ⟨_, exec_getfrm_of_ge hidx s, .illegal, .empty, s, rfl, rfl, rfl, rfl⟩

/-- Settles O40: `respond` gives the status with its own diagnostic and takes `busy` down (R120, R216). -/
theorem everyCommandAnswersWithAnAllowedStatus : Obligations.EveryCommandAnswersWithAnAllowedStatus := by
  intro i s
  obtain ⟨t, hexec, st, res, u, rfl, hmay, hdraws, hinputs⟩ := exec_respondsFrom i s
  exact ⟨respond st res u, { status := st, result := res }, hexec, rfl, hmay, rfl, rfl, hdraws, hinputs⟩

end Sys2Proof.Machine

end

section
/-! PROOFS. 70_reset_and_hazards.md: what a reset edge sets (O43), and what a cycle with `rst` abandons and keeps
(O44). -/

namespace Sys2Proof.Machine

/-! ### The frame buffer and the ports after a reset edge -/

/-- Every byte of the frame buffer is cleared (R40). -/
@[simp] theorem resetEdge_fbuf_read (s : State) (i : Nat) : (resetEdge s).fbuf.read i = 0 := by
  rw [resetEdge_fbuf, Memory.read_nil]

@[simp] theorem rspValid_resetEdge (s : State) : rspValid (resetEdge s) = false := by
  rw [rspValid, resetEdge_rsp, Option.isSome_none]

@[simp] theorem diagValid_resetEdge (s : State) : diagValid (resetEdge s) = false := by
  rw [diagValid, resetEdge_diag, Option.isSome_none]

@[simp] theorem rxPop_resetEdge (s : State) : rxPop (resetEdge s) = false := by
  rw [rxPop, resetEdge_fsm]

@[simp] theorem cmdReady_resetEdge (s : State) : cmdReady (resetEdge s) = true := by
  rw [cmdReady, resetEdge_busy, Bool.not_false]

/-- Settles O43: power-up is a reset edge too, and the fields and ports after a reset edge have the values of R231. -/
theorem resetValues : Obligations.ResetValues := by
  intro t ht
  obtain ⟨u, rfl⟩ : ∃ u, t = resetEdge u := ht.elim (fun h => ⟨_, h.trans reset_eq_resetEdge⟩) id
  exact ⟨resetEdge_latch u, resetEdge_fbuf_read u, resetEdge_kv u, resetEdge_ki u, resetEdge_fsm u, resetEdge_byteIdx u,
    resetEdge_busy u, rspValid_resetEdge u, diagValid_resetEdge u, rxPop_resetEdge u, cmdReady_resetEdge u⟩

/-- Settles O44: in whatever state the machine is, a cycle with `rst` is the reset edge on the state that the bytes of
the cycle have reached (R230), so nothing of the abandoned command is left but what the transport holds. -/
theorem resetAbandonsTheCommandAndKeepsTheTransport : Obligations.ResetAbandonsTheCommandAndKeepsTheTransport := by
  intro s c hrst
  have hq : (resetEdge (feed c.arrivals s)).q = s.q ++ c.arrivals := by rw [resetEdge_q, feed_q]
  exact ⟨_, tick_reset c s hrst, hq, resetEdge_rsp _, resetEdge_diag _, resetEdge_latch _, resetEdge_fbuf_read _,
    resetEdge_kv _, resetEdge_ki _, resetEdge_fsm _, resetEdge_byteIdx _, resetEdge_busy _⟩

end Sys2Proof.Machine

end
